-- ==== Sys2Proof/Word.lean ====
section
/-! DEFINITION. Sys2Proof/Word.lean: the word types of the block.

Rule R9: bit 0 is the least significant bit; a 32-bit word has bytes 3 (`w[31:24]`) to 0 (`w[7:0]`).
Rules R60, R61: frame words are 32 bits, byte addresses are `ADDR_W` = 32 bits (decision D5). -/

namespace Sys2Proof

/-- One byte of frame memory or of a schedule entry. -/
abbrev Byte := BitVec 8

/-- One 32-bit frame word (rule R60), CSR (rule R40) or generator input (rule R61). -/
abbrev Word := BitVec 32

/-- A byte address of frame memory, `ADDR_W` = 32 bits (rules R8, R61). -/
abbrev Addr := BitVec 32

end Sys2Proof
end

