-- ==== Sys2Proof/Syntax.lean ====
section
/-! DEFINITION. Sys2Proof/Syntax.lean: the operations, frame words and line symbols of the block, as syntax. -/

namespace Sys2Proof

/-- A number the host hands over as an operand (rules R92, R100, R112).
`fin q` is the exact rational a numeral denotes; the other three exist only in `F32` and `F64`, and are refused. -/
inductive Operand where
  | fin (q : Rat)
  | posInf
  | negInf
  | nan
  deriving DecidableEq, Repr, Inhabited

/-- A line symbol (rule R86). -/
inductive LineSymbol where
  | sym0
  | sym1
  | symRst
  deriving DecidableEq, Repr, Inhabited

/-- One row of `spec/opcode_table.json` each: the seventeen operations of rules R7 and R88, the two word
formats of rules R82 and R83, the three line symbols of rule R86. -/
inductive Instr where
  /-- `RESET`, rule R260. -/
  | reset
  /-- `INIT`, rule R210; the two answers of the environment. -/
  | init (chanFree genFree : Bool)
  /-- `CONV h, s, v`, rule R100. -/
  | conv (h s v : Operand)
  /-- `BUILD h, s, v`, rule R120. -/
  | build (h s v : Operand)
  /-- `BLD.HDR`, rule R121. -/
  | bldHdr
  /-- `BLD.PIX`, rule R122. -/
  | bldPix
  /-- `ARM`, rule R141. -/
  | arm
  /-- `TICK`, rule R142. -/
  | tick
  /-- `IRQ`, rule R143. -/
  | irq
  /-- `TRIGGER chan, addr`, rule R161. -/
  | trigger (chan : Nat) (addr : Addr)
  /-- `XFER`, rule R164. -/
  | xfer
  /-- `GEN.HDR`, rule R181. -/
  | genHdr
  /-- `GEN.PIX`, rule R182. -/
  | genPix
  /-- `GEN.BIT`, rule R183. -/
  | genBit
  /-- `GEN.RST`, rule R184. -/
  | genRst
  /-- `RDCSR n`, rule R213. -/
  | rdcsr (n : Nat)
  /-- `SWAP`, rule R150. -/
  | swap
  /-- `W-HDR`, rule R82: the 24-bit count and the low byte the generator ignores (rule R89). -/
  | wHdr (count : BitVec 24) (low : Byte)
  /-- `W-PIX`, rule R83: green, red, blue and the byte that is never sent (rule R89). -/
  | wPix (g r b unused : Byte)
  /-- `SYM0`, rule R86. -/
  | sym0
  /-- `SYM1`, rule R86. -/
  | sym1
  /-- `SYMRST`, rule R86. -/
  | symRst
  deriving DecidableEq, Repr, Inhabited

/-- The agents of rule R7. -/
inductive Agent where
  | environment | host | bld | tmr | irq | dma | gen
  deriving DecidableEq, Repr

/-- Which agent performs an operation (rules R7, R88); a word and a symbol are the generator's. -/
def Instr.agent : Instr → Agent
  | .reset => .environment
  | .init _ _ | .conv _ _ _ | .build _ _ _ | .arm | .rdcsr _ => .host
  | .bldHdr | .bldPix => .bld
  | .tick => .tmr
  | .irq | .swap => .irq
  | .trigger _ _ | .xfer => .dma
  | .genHdr | .genPix | .genBit | .genRst => .gen
  | .wHdr _ _ | .wPix _ _ _ _ | .sym0 | .sym1 | .symRst => .gen

/-- The two execution contexts of rule R242. -/
inductive Context where
  | thread
  | interrupt
  deriving DecidableEq, Repr

/-- The context an agent's operations are performed in (rule R242); hardware agents and the environment have none. -/
def Agent.context : Agent → Option Context
  | .host | .bld => some .thread
  | .irq => some .interrupt
  | .environment | .tmr | .dma | .gen => none

/-- Whether a frame word stands where a header or where a colour word is taken (rule R81: decoding is positional). -/
inductive Position where
  | header
  | colour
  deriving DecidableEq, Repr, Inhabited

/-- One encoded item in one of the formats of rule R80. -/
inductive Item where
  /-- Format `OP`: the 8-bit tag of rule R88 and the operand bytes (their form is the model's own, log 4). -/
  | op (bytes : List Byte)
  /-- Formats `W-HDR` and `W-PIX`: a 32-bit word, told apart by position only. -/
  | word (w : Word)
  /-- Format `LINE`: the 2-bit symbol number of rule R86. -/
  | line (code : BitVec 2)
  deriving DecidableEq, Repr, Inhabited

/-- One entry of the schedule (rule R20: which agent steps next is not state of the block).
DESIGN CHOICE (log 2, log 9), safe: `dt` is the time that passes before the step, read in the timed reading only. -/
structure Entry where
  dt : Nat
  item : Item
  deriving DecidableEq, Repr, Inhabited

end Sys2Proof
end

