-- ==== Sys2Proof/Config.lean ====
section
/-! DEFINITION. Sys2Proof/Config.lean: the parameters of rule R8, and the free values. -/

namespace Sys2Proof

/-- The arithmetic the converter and the builder compute in (rule R101). -/
inductive Arith where
  | exact
  | f32
  | f64
  deriving DecidableEq, Repr

/-- What a trigger does when the engine is busy (rules R146, R162, R163). -/
inductive BusyPolicy where
  | drop
  | queue
  deriving DecidableEq, Repr

/-- `BUFFERS` = 1 or 2 (rule R6). -/
inductive Buffers where
  | single
  | double
  deriving DecidableEq, Repr

/-- What an `XFER` does with a word nothing has stored (rule R73): refuse the run, or take a draw. -/
inductive Unwritten where
  | stop
  | draw
  deriving DecidableEq, Repr

/-- What a successful `INIT` does with a swap that waits (log 19): rule R210, line 3, clears the request; under rule
R263 a build that is over before `INIT` still goes live at the first tick. -/
inductive InitSwap where
  | clears
  | keeps
  deriving DecidableEq, Repr

/-- The configuration record of rule R8. `WORD` and `ADDR_W` are fixed at 32. Times are in nanoseconds. -/
structure Config where
  /-- `N`, the pixel count. -/
  n : Nat
  /-- `TICK_PERIOD`. -/
  tickPeriod : Nat
  /-- `BUF_ADDR`. -/
  bufAddr : Addr
  /-- `BUF_ADDR2`. -/
  bufAddr2 : Addr
  /-- `CHAN`. -/
  chan : Nat
  /-- `ARITH`. -/
  arith : Arith
  /-- `BUSY_POLICY`. -/
  busyPolicy : BusyPolicy
  /-- `IN_DEPTH`. -/
  inDepth : Nat
  /-- `BUFFERS`. -/
  buffers : Buffers
  /-- `T0H`. -/
  t0h : Nat
  /-- `T0L`. -/
  t0l : Nat
  /-- `T1H`. -/
  t1h : Nat
  /-- `T1L`. -/
  t1l : Nat
  /-- `T_RESET`. -/
  tReset : Nat
  /-- `XFER_LAT`. -/
  xferLat : Nat
  /-- Which of the two readings of rule R73 is taken. -/
  unwritten : Unwritten
  /-- Which of the two readings of a build before `INIT` is taken (log 19). -/
  initSwap : InitSwap
  /-- Whether the timed reading is taken (decision D26: the normative model is untimed). -/
  timed : Bool
  deriving DecidableEq, Repr

namespace Config

/-- The defaults of rule R8; for the OPEN parameters the instances of 95_test_vectors.md section 1, and for the
durations the orientation figures of 93_implementation_defined.md U9.
DESIGN CHOICE (log 1), unsafe only for a claim about these numbers; every other statement holds for all of them. -/
def default : Config where
  n := 64
  tickPeriod := 17000000
  bufAddr := 0x20000000
  bufAddr2 := 0x20001000
  chan := 0
  arith := .exact
  busyPolicy := .drop
  inDepth := 1
  buffers := .single
  t0h := 400
  t0l := 850
  t1h := 800
  t1l := 450
  tReset := 50000
  xferLat := 1000
  unwritten := .stop
  initSwap := .clears
  timed := false

/-- `OOR` of rule R111: the converter's result outside the nominal domain, a function of the operands and nothing
else. A free value; one function for each arithmetic (log 10), safe. The whole word is free, its low byte too: DESIGN
CHOICE (log 24), safe. -/
opaque oor : Arith → Rat → Rat → Rat → Word

/-- What `ARITH.lit` makes of a numeral beyond every finite value of the format (rule R101). A free value (log 31), safe. -/
opaque litBeyond : Arith → Rat → Rat

/-- The `k`-th draw of rule R10: what `RDCSR` returns for a register with no value (rules R45, R47). A free value
(log 3), safe. -/
opaque freeWord : Nat → Word

/-- What `CSR[6]` shows of a channel identifier that 32 bits do not hold (rules R22, R47). A free value (log 23),
safe. -/
opaque wideChannel : Nat → Word

/-- The byte frame memory holds at an address after the `k`-th reset, before anything is stored there (rules R73,
R262). A free value (log 5), safe. -/
opaque freeByte : Nat → Nat → Byte

/-- The schedule entry the environment chooses where none is given (rules R20, R148, R235). A free value (log 2),
safe. -/
opaque freeEntry : Nat → Entry

end Config

end Sys2Proof
end

