-- ==== Sys2Proof/WellFormed.lean ====
section
/-! DEFINITION. Sys2Proof/WellFormed.lean: which operations the spec gives a meaning as written. -/

namespace Sys2Proof

/-- Rule R112: only finite operands have a meaning. -/
def Operand.isFinite : Operand → Bool
  | .fin _ => true
  | .posInf | .negInf | .nan => false

/-- The checks on an instruction as syntax: finite operands (rule R112), an existing CSR (rules R40, R213), a
word-aligned buffer address (rule R64). Everything else is well-formed: no 32-bit value is an illegal word (rule R90). -/
def Instr.wellFormed : Instr → Bool
  | .conv h s v => h.isFinite && s.isFinite && v.isFinite
  | .build h s v => h.isFinite && s.isFinite && v.isFinite
  | .rdcsr n => decide (n ≤ 12)
  | .trigger _ addr => addr.toNat % 4 == 0
  | .reset | .init _ _ | .bldHdr | .bldPix | .arm | .tick | .irq | .xfer => true
  | .genHdr | .genPix | .genBit | .genRst | .swap => true
  | .wHdr _ _ | .wPix _ _ _ _ | .sym0 | .sym1 | .symRst => true

/-- An instruction that passes every check. -/
abbrev Instr.WellFormed (i : Instr) : Prop := i.wellFormed = true

end Sys2Proof
end

