-- ==== Sys2Proof/Decode.lean ====
section
/-! DEFINITION. Sys2Proof/Decode.lean: the decoder of the formats of rule R80, and the encoder.

The tags (rule R88), the word formats (rules R82, R83) and the symbol numbers (rule R86) are the spec's. Operands are
not part of a tag (rule R88); the byte form they have after the tag is the model's own (log 4). -/

namespace Sys2Proof

/-- Why an item decodes to nothing. -/
inductive DecodeError where
  /-- Tags 0x11 to 0xFF name no operation (rule R88). -/
  | reservedTag (tag : Byte)
  /-- The symbol number 0b11 is unused (rule R86). -/
  | reservedSymbol
  /-- The item ends before the operation's operands do. -/
  | operandMissing
  /-- An operand's leading byte is none of those the model's operand form has (log 4). -/
  | operandMalformed
  /-- Bytes are left after the operation's last operand. -/
  | trailingBytes
  deriving DecidableEq, Repr

/-! ## Operand bytes (log 4) -/

/-- A natural number, seven bits a byte, least significant first; the top bit says that more follow. -/
def decodeNat : List Byte → Except DecodeError (Nat × List Byte)
  | [] => .error .operandMissing
  | b :: bs =>
    if b.toNat < 128 then .ok (b.toNat, bs)
    else
      match decodeNat bs with
      | .ok (m, rest) => .ok (b.toNat - 128 + 128 * m, rest)
      | .error e => .error e

/-- The bytes of a natural number; `fuel` bounds how many there are. -/
def encodeNatFuel : Nat → Nat → List Byte
  | 0, n => [BitVec.ofNat 8 (n % 128)]
  | fuel + 1, n =>
    if n < 128 then [BitVec.ofNat 8 n] else BitVec.ofNat 8 (128 + n % 128) :: encodeNatFuel fuel (n / 128)

/-- The bytes of a natural number. -/
def encodeNat (n : Nat) : List Byte := encodeNatFuel n n

/-- The rational with this sign, numerator and denominator less one. -/
def rationalOf (negative : Bool) (num denLess1 : Nat) : Rat :=
  if negative then mkRat (-(num : Int)) (denLess1 + 1) else mkRat (num : Int) (denLess1 + 1)

/-- Numerator and denominator of a finite operand. -/
def decodeFraction (negative : Bool) (bs : List Byte) : Except DecodeError (Operand × List Byte) :=
  match decodeNat bs with
  | .error e => .error e
  | .ok (num, bs1) =>
    match decodeNat bs1 with
    | .error e => .error e
    | .ok (denLess1, rest) => .ok (.fin (rationalOf negative num denLess1), rest)

/-- A number operand: a leading byte (0 and 1: finite, not negative and negative; 2, 3, 4: the non-finite values of
rule R112), then the numerator and the denominator less one. -/
def decodeNum : List Byte → Except DecodeError (Operand × List Byte)
  | [] => .error .operandMissing
  | lead :: bs =>
    match lead.toNat with
    | 0 => decodeFraction false bs
    | 1 => decodeFraction true bs
    | 2 => .ok (.posInf, bs)
    | 3 => .ok (.negInf, bs)
    | 4 => .ok (.nan, bs)
    | _ => .error .operandMalformed

/-- The bytes of a number operand. -/
def encodeNum : Operand → List Byte
  | .fin q => (if q.num < 0 then 1 else 0) :: (encodeNat q.num.natAbs ++ encodeNat (q.den - 1))
  | .posInf => [2]
  | .negInf => [3]
  | .nan => [4]

/-- An answer of the environment: 0 is `free`, 1 is `none` (rule R92: both default to free). -/
def decodeAnswer : List Byte → Except DecodeError (Bool × List Byte)
  | [] => .error .operandMissing
  | b :: bs =>
    match b.toNat with
    | 0 => .ok (true, bs)
    | 1 => .ok (false, bs)
    | _ => .error .operandMalformed

/-- The byte of an answer of the environment. -/
def encodeAnswer (free : Bool) : List Byte := if free then [0] else [1]

/-- A byte address, four bytes, least significant first. -/
def decodeAddr : List Byte → Except DecodeError (Addr × List Byte)
  | b0 :: b1 :: b2 :: b3 :: bs => .ok (b3 ++ b2 ++ b1 ++ b0, bs)
  | _ => .error .operandMissing

/-- The four bytes of an address. -/
def encodeAddr (a : Addr) : List Byte :=
  [a.extractLsb' 0 8, a.extractLsb' 8 8, a.extractLsb' 16 8, a.extractLsb' 24 8]

/-- Three number operands `h, s, v`. -/
def decodeTriple (make : Operand → Operand → Operand → Instr) (bs : List Byte) : Except DecodeError (Instr × List Byte) :=
  match decodeNum bs with
  | .error e => .error e
  | .ok (h, bs1) =>
    match decodeNum bs1 with
    | .error e => .error e
    | .ok (s, bs2) =>
      match decodeNum bs2 with
      | .error e => .error e
      | .ok (v, rest) => .ok (make h s v, rest)

/-- The two answers of `INIT`. -/
def decodeInit (bs : List Byte) : Except DecodeError (Instr × List Byte) :=
  match decodeAnswer bs with
  | .error e => .error e
  | .ok (chanFree, bs1) =>
    match decodeAnswer bs1 with
    | .error e => .error e
    | .ok (genFree, rest) => .ok (.init chanFree genFree, rest)

/-- The channel and the address of `TRIGGER`. -/
def decodeTrigger (bs : List Byte) : Except DecodeError (Instr × List Byte) :=
  match decodeNat bs with
  | .error e => .error e
  | .ok (chan, bs1) =>
    match decodeAddr bs1 with
    | .error e => .error e
    | .ok (addr, rest) => .ok (.trigger chan addr, rest)

/-- The register number of `RDCSR`. -/
def decodeRdcsr (bs : List Byte) : Except DecodeError (Instr × List Byte) :=
  match decodeNat bs with
  | .error e => .error e
  | .ok (n, rest) => .ok (.rdcsr n, rest)

/-! ## The decoder -/

/-- Format `OP` (rule R88): the tag, then the operands; answers the operation and the bytes after it. -/
def decodeOp : List Byte → Except DecodeError (Instr × List Byte)
  | [] => .error .operandMissing
  | tag :: bs =>
    match tag.toNat with
    | 0x00 => .ok (.reset, bs)
    | 0x01 => decodeInit bs
    | 0x02 => decodeTriple .conv bs
    | 0x03 => decodeTriple .build bs
    | 0x04 => .ok (.bldHdr, bs)
    | 0x05 => .ok (.bldPix, bs)
    | 0x06 => .ok (.arm, bs)
    | 0x07 => .ok (.tick, bs)
    | 0x08 => .ok (.irq, bs)
    | 0x09 => decodeTrigger bs
    | 0x0A => .ok (.xfer, bs)
    | 0x0B => .ok (.genHdr, bs)
    | 0x0C => .ok (.genPix, bs)
    | 0x0D => .ok (.genBit, bs)
    | 0x0E => .ok (.genRst, bs)
    | 0x0F => decodeRdcsr bs
    | 0x10 => .ok (.swap, bs)
    | _ => .error (.reservedTag tag)

/-- Formats `W-HDR` (rule R82) and `W-PIX` (rule R83), told apart by position (rule R81). -/
def decodeWord : Position → Word → Instr
  | .header, w => .wHdr (w.extractLsb' 8 24) (w.extractLsb' 0 8)
  | .colour, w => .wPix (w.extractLsb' 24 8) (w.extractLsb' 16 8) (w.extractLsb' 8 8) (w.extractLsb' 0 8)

/-- Format `LINE` (rule R86). -/
def decodeSymbol (code : BitVec 2) : Except DecodeError Instr :=
  match code.toNat with
  | 0 => .ok .sym0
  | 1 => .ok .sym1
  | 2 => .ok .symRst
  | _ => .error .reservedSymbol

/-- Any item of rule R80, at the position a word stands in. Total: what names nothing is refused by name. -/
def decodeItem (pos : Position) : Item → Except DecodeError Instr
  | .op bytes =>
    match decodeOp bytes with
    | .error e => .error e
    | .ok (i, []) => .ok i
    | .ok (_, _ :: _) => .error .trailingBytes
  | .word w => .ok (decodeWord pos w)
  | .line code => decodeSymbol code

/-! ## The encoder -/

/-- The item an instruction is written as. -/
def encode : Instr → Item
  | .reset => .op [0x00]
  | .init chanFree genFree => .op (0x01 :: (encodeAnswer chanFree ++ encodeAnswer genFree))
  | .conv h s v => .op (0x02 :: (encodeNum h ++ (encodeNum s ++ encodeNum v)))
  | .build h s v => .op (0x03 :: (encodeNum h ++ (encodeNum s ++ encodeNum v)))
  | .bldHdr => .op [0x04]
  | .bldPix => .op [0x05]
  | .arm => .op [0x06]
  | .tick => .op [0x07]
  | .irq => .op [0x08]
  | .trigger chan addr => .op (0x09 :: (encodeNat chan ++ encodeAddr addr))
  | .xfer => .op [0x0A]
  | .genHdr => .op [0x0B]
  | .genPix => .op [0x0C]
  | .genBit => .op [0x0D]
  | .genRst => .op [0x0E]
  | .rdcsr n => .op (0x0F :: encodeNat n)
  | .swap => .op [0x10]
  | .wHdr count low => .word (count ++ low)
  | .wPix g r b unused => .word (g ++ r ++ b ++ unused)
  | .sym0 => .line 0
  | .sym1 => .line 1
  | .symRst => .line 2

/-- The position an instruction's word has meaning in; for anything that is no word, the header's. -/
def positionOfInstr : Instr → Position
  | .wPix _ _ _ _ => .colour
  | .reset | .init _ _ | .conv _ _ _ | .build _ _ _ | .bldHdr | .bldPix | .arm | .tick | .irq | .trigger _ _ => .header
  | .xfer | .genHdr | .genPix | .genBit | .genRst | .rdcsr _ | .swap | .wHdr _ _ | .sym0 | .sym1 | .symRst => .header

/-! ## Reading an instruction of the table -/

/-- The position a bare word of the table is read in: a word whose low byte is zero can be a header (rule R82) and is
read as the first word of a frame; any other is read as a colour word (rule R83). DESIGN CHOICE (log 11), safe: only
`decodeTableWord` and `withFetchWord` use it, the machine itself decodes by the generator's phase. -/
def tablePosition (w : Word) : Position := if w.extractLsb' 0 8 = 0#8 then .header else .colour

/-- `count` bytes of `w`, least significant first. -/
def littleBytes : Nat → Nat → List Byte
  | 0, _ => []
  | count + 1, w => BitVec.ofNat 8 w :: littleBytes count (w / 256)

/-- The bytes of an operation whose given bits are `w`, with zeros for every operand bit not given: as many as the
operation takes, all of them where it decodes to nothing. No operation with zero operands is longer than 16 bytes. -/
def tableBytes (nbits w : Nat) : List Byte :=
  let bytes := littleBytes (nbits / 8) w ++ List.replicate 16 (0 : Byte)
  match decodeOp bytes with
  | .ok (_, rest) => bytes.take (bytes.length - rest.length)
  | .error _ => bytes

/-- The item an instruction of the table is laid out as: 32 bits are a frame word, fewer than 8 a line symbol (rule
R86), anything else a tag with its operands (rule R88). -/
def tableItem (nbits w : Nat) : Item :=
  if nbits = 32 then .word (BitVec.ofNat 32 w)
  else if nbits < 8 then .line (BitVec.ofNat 2 w)
  else .op (tableBytes nbits w)

/-- The position `tableItem` is decoded in. -/
def tableItemPosition (nbits w : Nat) : Position :=
  if nbits = 32 then tablePosition (BitVec.ofNat 32 w) else .header

/-- The instruction the decoder reads from an instruction of the table whose bits are `w`. -/
def decodeTableWord (nbits w : Nat) : Option Instr :=
  match decodeItem (tableItemPosition nbits w) (tableItem nbits w) with
  | .ok i => some i
  | .error _ => none

end Sys2Proof
end

