-- ==== Sys2Proof/Machine/State.lean ====
section
/-! DEFINITION. Sys2Proof/Machine/State.lean: the state of the block (rule R20), its reset value (rule R261), and the
reasons a step can stop. -/

namespace Sys2Proof.Machine

/-- `sys.state` (rule R21). -/
inductive SysState where
  | reset
  | ready
  | failed
  deriving DecidableEq, Repr

/-- `sys.cause` (rules R21, R232), the four values of its two bits. -/
inductive Cause where
  | none
  | noChannel
  | noGenerator
  | genNotInit
  deriving DecidableEq, Repr

/-- `sch.state` (rules R25, R140). -/
inductive SchState where
  | idle
  | armed
  deriving DecidableEq, Repr

/-- `gen.phase` (rules R27, R30). -/
inductive Phase where
  | hdr
  | pix
  | bit
  | rst
  deriving DecidableEq, Repr

/-- `ctx.cur` (rule R22): slot 0 is `zero`, slot 1 is `one`. -/
inductive Slot where
  | zero
  | one
  deriving DecidableEq, Repr

/-- System state (rule R21). -/
structure Sys where
  state : SysState
  cause : Cause
  deriving DecidableEq, Repr

/-- The Refresh Context (rule R22). -/
structure Ctx where
  chan : Nat
  addr : Addr
  cur : Slot
  swapReq : Bool
  deriving DecidableEq, Repr

/-- The Frame Builder's registers (rule R24); a number of any of the three arithmetics is a rational (log 10). -/
structure Bld where
  active : Bool
  idx : BitVec 20
  cursor : Rat
  s : Rat
  v : Rat
  step : Rat
  base : Addr
  deriving DecidableEq, Repr

/-- The Refresh Scheduler's registers (rule R25); `deadline` is of the timed reading only. -/
structure Sch where
  state : SchState
  irqPending : Bool
  dropped : Word
  deadline : Nat
  deriving DecidableEq, Repr

/-- The transfer engine's registers (rule R26). -/
structure Dma where
  busy : Bool
  raddr : Addr
  remaining : BitVec 20
  pending : Bool
  pendAddr : Addr
  deriving DecidableEq, Repr

/-- The signal generator's registers (rule R27); `inq` has its head first. -/
structure Gen where
  init : Bool
  inq : List Word
  phase : Phase
  osr : Word
  osrCnt : BitVec 5
  bitsLeft : BitVec 25
  deriving DecidableEq, Repr

/-- The model's own fields: none is state of the block (rule R20).
`sched` is the schedule still to be taken (log 2); `draws` counts the draws taken (log 3); `epoch` counts resets
(log 5); `replies` is what crossed the host reply port, oldest first (log 8); `now`, `genUntil` and `outAt` are of the
timed reading (log 9); `ctxWritten` and `raddrWritten` say whether a register without a reset value has been written
(log 7). -/
structure Env where
  sched : List Entry
  draws : Nat
  epoch : Nat
  replies : List Word
  now : Nat
  genUntil : Nat
  outAt : List Nat
  ctxWritten : Bool
  raddrWritten : Bool
  deriving DecidableEq, Repr

/-- The state of the machine: the block's registers, frame memory and output trace, its configuration (rule R8) and
the model's own fields. `mem` lists stored bytes by rising address (rule R62); an unlisted byte was never stored. -/
structure State where
  cfg : Config
  sys : Sys
  ctx : Ctx
  mem : List Host.Cell
  bld : Bld
  sch : Sch
  dma : Dma
  gen : Gen
  out : List LineSymbol
  env : Env
  deriving DecidableEq, Repr

/-- Every register at its reset value (rule R261), `OUT` empty, nothing stored in frame memory (rule R262).
DESIGN CHOICE (log 6), unsafe: the registers rule R261 leaves unspecified are 0. -/
def State.resetWith (cfg : Config) (env : Env) : State where
  cfg := cfg
  sys := { state := .reset, cause := .none }
  ctx := { chan := 0, addr := 0, cur := .zero, swapReq := false }
  mem := []
  bld := { active := false, idx := 0, cursor := 0, s := 0, v := 0, step := 0, base := 0 }
  sch := { state := .idle, irqPending := false, dropped := 0, deadline := 0 }
  dma := { busy := false, raddr := 0, remaining := 0, pending := false, pendAddr := 0 }
  gen := { init := false, inq := [], phase := .hdr, osr := 0, osrCnt := 0, bitsLeft := 0 }
  out := []
  env := env

/-- The machine right after power-on reset, in the default configuration, with no schedule given. -/
def State.reset : State :=
  State.resetWith Config.default
    { sched := [], draws := 0, epoch := 0, replies := [], now := 0, genUntil := 0, outAt := [],
      ctxWritten := false, raddrWritten := false }

/-- Faults of the model. The block's own faults (rule R232) are next states: see `raiseFault`. -/
inductive Fault where
  /-- `UNWRITTEN_READ` (rules R73, R241): raised by `XFER` on a word some byte of which nothing has stored, when the
  configuration refuses such runs. Safe: on the chip the engine would deliver whatever the memory holds. -/
  | unwrittenRead (addr : Addr)
  deriving DecidableEq, Repr

/-- Refusals: requests the spec gives no meaning (rules R11, R241). Each is safe. -/
inductive Refusal where
  /-- An instruction with no meaning yet: raised by an arm of `exec` alone; none is left. -/
  | notModelled (mnemonic : String)
  /-- A schedule entry that names no operation, word or symbol (rules R86, R88, U13): raised by the step. -/
  | undecodable (why : DecodeError)
  /-- A configuration the spec refuses (rules R8, R64, R67, U15): raised by the step. -/
  | badConfig
  /-- A second `INIT` (rule R210): raised by `INIT` in `READY`. -/
  | secondInit
  /-- A second `ARM` (rule R141): raised by `ARM` when armed. -/
  | secondArm
  /-- A register number above 12 (rules R40, R213): raised by `RDCSR`. -/
  | noSuchCsr (n : Nat)
  /-- An infinity or a not-a-number (rule R112): raised by `CONV` and `BUILD`. -/
  | nonFinite
  /-- A trigger naming another channel (rule R167): raised by `TRIGGER`. -/
  | foreignChannel (chan : Nat)
  /-- A trigger naming a misaligned buffer (rule R64): raised by `TRIGGER`. -/
  | misalignedBuffer (addr : Addr)
  deriving DecidableEq, Repr

end Sys2Proof.Machine
end

