-- ==== Sys2Proof/Machine/Operands.lean ====
section
/-! DEFINITION. Sys2Proof/Machine/Operands.lean: the arithmetic of rule R101, operand values, the colour converter as
a function (rules R100 to R111), and the field assembly of rules R84 and R85. -/

namespace Sys2Proof.Machine

/-! ## Arithmetic (rule R101)

A finite value of any of the three arithmetics is held as the rational it is (log 10). -/

/-- The exponent `e` with `2^e <= num/den < 2^(e+1)`, for a positive fraction. -/
def binaryExponent (num den : Nat) : Int :=
  let e : Int := (Nat.log2 num : Int) - (Nat.log2 den : Int)
  let reached : Bool := if 0 ≤ e then den * 2 ^ e.toNat ≤ num else den ≤ num * 2 ^ (-e).toNat
  if reached then e else e - 1

/-- The integer nearest to `num/den`, ties to even. -/
def roundHalfEven (num den : Nat) : Nat :=
  let below := num / den
  let rest := num % den
  if 2 * rest < den then below
  else if den < 2 * rest then below + 1
  else if below % 2 = 0 then below else below + 1

/-- `m * 2^u`. -/
def scaleByPower (m : Nat) (u : Int) : Rat :=
  if 0 ≤ u then mkRat ((m * 2 ^ u.toNat : Nat) : Int) 1 else mkRat (m : Int) (2 ^ (-u).toNat)

/-- A positive fraction rounded to nearest, ties to even, to `p` significant bits, with no bit below `2^lowest`. -/
def roundMagnitude (p : Nat) (lowest : Int) (num den : Nat) : Rat :=
  let u : Int := max (binaryExponent num den - ((p : Int) - 1)) lowest
  let m : Nat :=
    if 0 ≤ u then roundHalfEven num (den * 2 ^ u.toNat) else roundHalfEven (num * 2 ^ (-u).toNat) den
  scaleByPower m u

/-- A rational rounded to nearest, ties to even, in a binary format of `p` significant bits whose smallest positive
value is `2^lowest`. -/
def roundBinary (p : Nat) (lowest : Int) (q : Rat) : Rat :=
  if q.num = 0 then 0
  else if q.num < 0 then -(roundMagnitude p lowest q.num.natAbs q.den)
  else roundMagnitude p lowest q.num.natAbs q.den

/-- The one rounding of an arithmetic operation (rule R101): none in `EXACT`, binary32 in `F32`, binary64 in `F64`. -/
def arithRound : Arith → Rat → Rat
  | .exact, q => q
  | .f32, q => roundBinary 24 (-149) q
  | .f64, q => roundBinary 53 (-1074) q

/-- `+` of the arithmetic. -/
def arithAdd (a : Arith) (x y : Rat) : Rat := arithRound a (x + y)
/-- `-` of the arithmetic. -/
def arithSub (a : Arith) (x y : Rat) : Rat := arithRound a (x - y)
/-- `*` of the arithmetic. -/
def arithMul (a : Arith) (x y : Rat) : Rat := arithRound a (x * y)
/-- `/` of the arithmetic. -/
def arithDiv (a : Arith) (x y : Rat) : Rat := arithRound a (x / y)

/-- The first power of two above every finite value of the arithmetic, where there is one. -/
def arithLimit : Arith → Option Nat
  | .exact => none
  | .f32 => some (2 ^ 128)
  | .f64 => some (2 ^ 1024)

/-- `x` is not beyond every finite value of the arithmetic. -/
def inRange (a : Arith) (x : Rat) : Bool :=
  match arithLimit a with
  | none => true
  | some top => decide (x.num.natAbs < top * x.den)

/-- The finite value of the arithmetic that a free rational stands for: every finite value stands for itself. -/
def finiteValue (a : Arith) (x : Rat) : Rat := if inRange a (arithRound a x) then arithRound a x else 0

/-- `ARITH.lit` (rule R101): the numeral's value in the arithmetic. Of a numeral beyond every finite value of `F32` or
`F64`, for which the rule states no value, a free finite value: DESIGN CHOICE (log 31), safe. -/
def arithLit (a : Arith) (q : Rat) : Rat :=
  if inRange a (arithRound a q) then arithRound a q else finiteValue a (Config.litBeyond a q)

/-- The value of a number operand in the arithmetic; none for an infinity or a not-a-number (rule R112). -/
def operandValue (a : Arith) : Operand → Option Rat
  | .fin q => some (arithLit a q)
  | .posInf | .negInf | .nan => none

/-- The values of three operands, none unless all are finite (rule R112). -/
def operandValues (a : Arith) (h s v : Operand) : Option (Rat × Rat × Rat) :=
  match operandValue a h, operandValue a s, operandValue a v with
  | some h', some s', some v' => some (h', s', v')
  | _, _, _ => none

/-! ## Field assembly -/

/-- Rule R84: green, red, blue and a zero byte. -/
def pack (r g b : Byte) : Word := g ++ r ++ b ++ 0#8

/-- Rule R85: the header of a frame of `n` pixels. -/
def header (n : Nat) : Word := BitVec.ofNat 32 (n * 24 - 1) <<< 8

/-- Rule R82: the 24-bit count of a header word. -/
def headerCount (w : Word) : BitVec 24 := w.extractLsb' 8 24

/-! ## The Color Converter -/

/-- Rule R108: a channel scaled by 255 and truncated. -/
def channel (a : Arith) (x : Rat) : Byte := BitVec.ofInt 8 (arithMul a x 255).floor

/-- Rule R111: what counts as inside the nominal domain; the hue is not looked at when the saturation is zero. -/
def inDomain (h s v : Rat) : Bool :=
  decide (0 ≤ v) && decide (v ≤ 1) && decide (0 ≤ s) && decide (s ≤ 1) &&
    (decide (s = 0) || (decide (0 ≤ h) && decide (h ≤ 360)))

/-- Rule R104: exactly 360 folds to 0. -/
def foldHue (h : Rat) : Rat := if h = 360 then 0 else h

/-- Rule R105: the sector before reduction, `floor(h/60)` of a folded hue. -/
def hueSector (a : Arith) (h : Rat) : Int := (arithDiv a h 60).floor

/-- Rule R105: the fraction `f = h/60 - i`. -/
def hueFraction (a : Arith) (h : Rat) : Rat := arithSub a (arithDiv a h 60) ((hueSector a h : Int) : Rat)

/-- Rule R106: `p = v * (1 - s)`. -/
def mixP (a : Arith) (s v : Rat) : Rat := arithMul a v (arithSub a 1 s)

/-- Rule R106: `q = v * (1 - (s * f))`. -/
def mixQ (a : Arith) (s v f : Rat) : Rat := arithMul a v (arithSub a 1 (arithMul a s f))

/-- Rule R106: `t = v * (1 - (s * (1 - f)))`. -/
def mixT (a : Arith) (s v f : Rat) : Rat := arithMul a v (arithSub a 1 (arithMul a s (arithSub a 1 f)))

/-- Rule R107: the `(r, g, b)` of a sector; anything but 0 to 4 takes the last tuple. -/
def selectRgb (sector : Int) (v p q t : Rat) : Rat × Rat × Rat :=
  if sector = 0 then (v, t, p)
  else if sector = 1 then (q, v, p)
  else if sector = 2 then (p, v, t)
  else if sector = 3 then (p, q, v)
  else if sector = 4 then (t, p, v)
  else (v, p, q)

/-- Rule R108: the three channels packed. -/
def packRgb (a : Arith) (rgb : Rat × Rat × Rat) : Word :=
  pack (channel a rgb.1) (channel a rgb.2.1) (channel a rgb.2.2)

/-- Rules R104 to R108: the colour path, `s` not zero. -/
def convColour (a : Arith) (h s v : Rat) : Word :=
  packRgb a
    (selectRgb (hueSector a (foldHue h) % 6) v (mixP a s v) (mixQ a s v (hueFraction a (foldHue h)))
      (mixT a s v (hueFraction a (foldHue h))))

/-- Rule R103: the grey path. -/
def convGrey (a : Arith) (v : Rat) : Word := pack (channel a v) (channel a v) (channel a v)

/-- Rule R100: the converter; outside the nominal domain the free function `OOR` of rule R111. -/
def conv (a : Arith) (h s v : Rat) : Word :=
  if inDomain h s v then
    if s = 0 then convGrey a v else convColour a h s v
  else Config.oor a h s v

/-! ## The hue cursor -/

/-- Rule R129: the per-pixel advance `360/N`. -/
def hueStep (a : Arith) (n : Nat) : Rat := arithDiv a 360 (n : Rat)

/-- Rule R123: one addition, then one subtraction of 360 when the sum is at or above it. -/
def advanceCursor (a : Arith) (cursor step : Rat) : Rat :=
  if 360 ≤ arithAdd a cursor step then arithSub a (arithAdd a cursor step) 360 else arithAdd a cursor step

end Sys2Proof.Machine
end

