-- ==== Sys2Proof/Machine/Flags.lean ====
section
/-! DEFINITION. Sys2Proof/Machine/Flags.lean: the derived signals of rule R28, the enabling condition of every
operation, the CSR view (rules R40 to R51), and the configuration check. -/

namespace Sys2Proof.Machine

/-! ## The configuration (rules R8, R60, R64, R67) -/

/-- A buffer of `n + 1` words at `base` is word-aligned and does not run past the top of the address space. -/
def bufferOk (n : Nat) (base : Addr) : Bool :=
  base.toNat % 4 == 0 && decide (base.toNat + 4 * (n + 1) ≤ 2 ^ 32)

/-- Two buffers of `n + 1` words do not overlap. -/
def buffersApart (n : Nat) (a b : Addr) : Bool :=
  decide (a.toNat + 4 * (n + 1) ≤ b.toNat) || decide (b.toNat + 4 * (n + 1) ≤ a.toNat)

/-- The configurations the spec gives a meaning: `1 <= N <= 699050`, `IN_DEPTH >= 1` (and at most 255, rule R48), the
buffers as rules R64 and R67 ask, the two slots apart (rules R8, R60). Two equal high times are not refused, nor
is a duration of zero: DESIGN CHOICE (log 25, log 29), safe. -/
def configOk (c : Config) : Bool :=
  decide (1 ≤ c.n) && decide (c.n ≤ 699050) && decide (1 ≤ c.inDepth) && decide (c.inDepth ≤ 255) &&
    bufferOk c.n c.bufAddr &&
    (match c.buffers with
      | .single => true
      | .double => bufferOk c.n c.bufAddr2 && buffersApart c.n c.bufAddr c.bufAddr2)

/-- The byte address of word 0 of a slot (rules R22, R60). -/
def slotAddr (c : Config) : Slot → Addr
  | .zero => c.bufAddr
  | .one => c.bufAddr2

/-- `1 - ctx.cur` (rule R150). -/
def otherSlot : Slot → Slot
  | .zero => .one
  | .one => .zero

/-- Where a `BUILD` builds (rule R120, line 4): the one buffer, or the slot that is not live. -/
def buildBase (c : Config) (cur : Slot) : Addr :=
  match c.buffers with
  | .single => c.bufAddr
  | .double => slotAddr c (otherSlot cur)

/-- `N + 1` as the 20-bit registers hold it. -/
def frameWords (c : Config) : BitVec 20 := BitVec.ofNat 20 (c.n + 1)

/-! ## Signals (rule R28) -/

/-- The data request of rules R28 and R191. -/
def dreq (s : State) : Bool := s.gen.init && decide (s.gen.inq.length < s.cfg.inDepth)

/-- The interrupt request of rules R28 and R234. -/
def irqLine (s : State) : Bool := s.sch.irqPending

/-- How long the line is high at the start of a symbol (rules R86, R185). -/
def highTime (c : Config) : LineSymbol → Nat
  | .sym0 => c.t0h
  | .sym1 => c.t1h
  | .symRst => 0

/-- The level of the output line, `true` for high (rules R28, R185, R187). In the untimed reading it is low in every
state. In the timed reading another agent may step while a `GEN.BIT` lasts: there the line is high for the high time of
the symbol sent last, counted from its start, and low otherwise; at the boundaries of the generator's own steps it is
low. DESIGN CHOICE (log 27), safe. -/
def lineLevel (s : State) : Bool :=
  s.cfg.timed &&
    (match s.out.getLast?, s.env.outAt.getLast? with
      | some sym, some start => decide (s.env.now < start + highTime s.cfg sym)
      | some _, none | none, _ => false)

/-! ## Enabling conditions -/

/-- Rule R231: in `FAILED` nothing is enabled but `RDCSR`, `CONV` and `RESET`. -/
def alive (s : State) : Bool := decide (s.sys.state ≠ .failed)

/-- Rule R120: while a build is active the host thread issues nothing. -/
def hostFree (s : State) : Bool := !s.bld.active

/-- When `INIT`, `BUILD` and `ARM` get an answer at all (rules R120, R141, R210, R231). -/
def hostOpen (s : State) : Bool := hostFree s && alive s

/-- Rule R121. -/
def canBldHdr (s : State) : Bool := alive s && s.bld.active && decide (s.bld.idx = 0)

/-- Rule R122. -/
def canBldPix (s : State) : Bool :=
  alive s && s.bld.active && decide (1 ≤ s.bld.idx.toNat) && decide (s.bld.idx.toNat ≤ s.cfg.n)

/-- Rule R142; the deadline counts in the timed reading only. -/
def canTick (s : State) : Bool :=
  alive s && decide (s.sch.state = .armed) && !s.sch.irqPending &&
    (!s.cfg.timed || decide (s.sch.deadline ≤ s.env.now))

/-- Rule R143. -/
def canIrq (s : State) : Bool := alive s && s.sch.irqPending

/-- Rules R161, R167: a channel is the block's only once `INIT` has claimed it (log 12). -/
def canTrigger (s : State) : Bool := decide (s.sys.state = .ready)

/-- Rule R150: the step exists only when `BUFFERS = 2`. -/
def canSwap (s : State) : Bool := alive s && decide (s.cfg.buffers = .double)

/-- Rule R164. -/
def canXfer (s : State) : Bool := alive s && s.dma.busy && dreq s

/-- The generator is not inside a step: always in the untimed reading, else when the running step's time is over
(rule R269). -/
def genAtRest (s : State) : Bool := alive s && (!s.cfg.timed || decide (s.env.genUntil ≤ s.env.now))

/-- The next `GEN.BIT` follows one of the same word, so no gap may be between them (rule R185). -/
def midWord (s : State) : Bool := decide (s.gen.phase = .bit) && decide (s.gen.osrCnt ≠ 24)

/-- Rule R181. -/
def canGenHdr (s : State) : Bool := genAtRest s && decide (s.gen.phase = .hdr) && decide (1 ≤ s.gen.inq.length)

/-- Rule R182. -/
def canGenPix (s : State) : Bool := genAtRest s && decide (s.gen.phase = .pix) && decide (1 ≤ s.gen.inq.length)

/-- Rule R183. -/
def canGenBit (s : State) : Bool := genAtRest s && decide (s.gen.phase = .bit)

/-- Rule R184. -/
def canGenRst (s : State) : Bool := genAtRest s && decide (s.gen.phase = .rst)

/-- The generator is about to take exactly this word as its header (rules R81, R181). -/
def takesHeader (s : State) (w : Word) : Bool := canGenHdr s && decide (s.gen.inq.head? = some w)

/-- The generator is about to take exactly this word as a colour word (rules R81, R182). -/
def takesColour (s : State) (w : Word) : Bool := canGenPix s && decide (s.gen.inq.head? = some w)

/-- The generator is about to emit the symbol of this bit (rule R183). -/
def emitsBit (s : State) (b : Bool) : Bool := canGenBit s && decide (s.gen.osr.getLsbD 31 = b)

/-- Which operations are enabled in a state. `INIT` and `ARM` count as enabled when they take effect or fault,
`TRIGGER` and `RDCSR` whatever their operands. -/
def enabled (s : State) : Instr → Bool
  | .reset => true
  | .init _ _ => hostOpen s && decide (s.sys.state = .reset)
  | .conv _ _ _ => hostFree s
  | .build _ _ _ => hostOpen s
  | .bldHdr => canBldHdr s
  | .bldPix => canBldPix s
  | .arm => hostOpen s
  | .tick => canTick s
  | .irq => canIrq s
  | .trigger _ _ => canTrigger s
  | .xfer => canXfer s
  | .genHdr => canGenHdr s
  | .genPix => canGenPix s
  | .genBit => canGenBit s
  | .genRst => canGenRst s
  | .rdcsr _ => hostFree s
  | .swap => canSwap s
  | .wHdr count low => takesHeader s (count ++ low)
  | .wPix g r b unused => takesColour s (g ++ r ++ b ++ unused)
  | .sym0 => emitsBit s false
  | .sym1 => emitsBit s true
  | .symRst => canGenRst s

/-- The position the generator takes a word in (rules R81, R188): a header in `HDR` and after `RST`, else a colour. -/
def wordPosition : Phase → Position
  | .hdr | .rst => .header
  | .pix | .bit => .colour

/-! ## The CSR view (rules R40 to R51) -/

/-- One flag as a 32-bit number. -/
def bitWord (b : Bool) : Word := if b then 1 else 0

/-- The value of `sys.state` in `CSR[0]` (rule R41). -/
def sysStateCode : SysState → Word
  | .reset => 0
  | .ready => 1
  | .failed => 2

/-- The fault codes of rule R232. -/
def causeCode : Cause → Word
  | .none => 0
  | .noChannel => 1
  | .noGenerator => 2
  | .genNotInit => 3

/-- The value of `gen.phase` in `CSR[8]` (rule R48). -/
def phaseCode : Phase → Word
  | .hdr => 0
  | .pix => 1
  | .bit => 2
  | .rst => 3

/-- The index of a slot (rule R22). -/
def slotCode : Slot → Word
  | .zero => 0
  | .one => 1

/-- `CSR[0]` (rule R41). -/
def csrSysStatus (s : State) : Word := sysStateCode s.sys.state ||| (causeCode s.sys.cause <<< 2)
/-- `CSR[1]` (rule R42). -/
def csrSchStatus (s : State) : Word := bitWord (decide (s.sch.state = .armed)) ||| (bitWord s.sch.irqPending <<< 1)
/-- `CSR[2]` (rule R43). -/
def csrDropped (s : State) : Word := s.sch.dropped
/-- `CSR[3]` (rule R44): the pending bit reads 0 when `BUSY_POLICY = DROP`. -/
def csrDmaStatus (s : State) : Word :=
  bitWord s.dma.busy ||| (bitWord (s.dma.pending && decide (s.cfg.busyPolicy = .queue)) <<< 1)
/-- `CSR[4]` (rule R45). -/
def csrDmaRaddr (s : State) : Word := s.dma.raddr
/-- `CSR[5]` (rule R46). -/
def csrDmaRemain (s : State) : Word := s.dma.remaining.setWidth 32
/-- `CSR[6]` (rule R47). A channel identifier of `2^32` or more, which rule R22 allows and 32 bits do not hold, reads as
a free value: DESIGN CHOICE (log 23), safe. -/
def csrCtxChan (s : State) : Word :=
  if s.ctx.chan < 2 ^ 32 then BitVec.ofNat 32 s.ctx.chan else Config.wideChannel s.ctx.chan
/-- `CSR[7]` (rule R47). -/
def csrCtxAddr (s : State) : Word := s.ctx.addr
/-- `CSR[8]` (rule R48). -/
def csrGenStatus (s : State) : Word :=
  phaseCode s.gen.phase ||| (bitWord s.gen.init <<< 2) ||| (bitWord (dreq s) <<< 3) |||
    (s.gen.osrCnt.setWidth 32 <<< 8) ||| ((BitVec.ofNat 8 s.gen.inq.length).setWidth 32 <<< 16)
/-- `CSR[9]` (rule R49). -/
def csrGenBitsLeft (s : State) : Word := s.gen.bitsLeft.setWidth 32
/-- `CSR[10]` (rule R50). -/
def csrBldStatus (s : State) : Word := bitWord s.bld.active ||| (s.bld.idx.setWidth 32 <<< 1)
/-- `CSR[11]` (rule R51). -/
def csrCfgN (s : State) : Word := (BitVec.ofNat 20 s.cfg.n).setWidth 32
/-- `CSR[12]` (rule R51): 0 when `BUFFERS = 1`. -/
def csrCtxSwap (s : State) : Word :=
  match s.cfg.buffers with
  | .single => 0
  | .double => slotCode s.ctx.cur ||| (bitWord s.ctx.swapReq <<< 1)

/-- `CSR[n]` for the thirteen registers of rule R40. -/
def csr (s : State) (n : Nat) : Option Word :=
  match n with
  | 0 => some (csrSysStatus s)
  | 1 => some (csrSchStatus s)
  | 2 => some (csrDropped s)
  | 3 => some (csrDmaStatus s)
  | 4 => some (csrDmaRaddr s)
  | 5 => some (csrDmaRemain s)
  | 6 => some (csrCtxChan s)
  | 7 => some (csrCtxAddr s)
  | 8 => some (csrGenStatus s)
  | 9 => some (csrGenBitsLeft s)
  | 10 => some (csrBldStatus s)
  | 11 => some (csrCfgN s)
  | 12 => some (csrCtxSwap s)
  | _ => none

/-- The registers that have no value yet, so that a read of them is a draw (rules R45, R47). -/
def csrUnspecified (s : State) (n : Nat) : Bool :=
  match n with
  | 4 => !s.env.raddrWritten
  | 6 => !s.env.ctxWritten
  | 7 => !s.env.ctxWritten
  | _ => false

end Sys2Proof.Machine
end

