-- ==== Sys2Proof/Machine/Ops.lean ====
section
/-! DEFINITION. Sys2Proof/Machine/Ops.lean: the named operations over memory and registers that the meanings share:
memory access, raising a fault, resetting, the queue, the trace, a trigger, a swap, the moves of the generator. -/

namespace Sys2Proof.Machine

/-! ## Frame memory (rules R60 to R66, R73) -/

/-- The stored byte at an address; none if nothing was stored there. -/
def lookupByte : List Host.Cell → Nat → Option Byte
  | [], _ => none
  | (k, b) :: rest, a => if k = a then some b else lookupByte rest a

/-- Memory with one byte stored: the list stays sorted, each address at most once. -/
def insertByte : List Host.Cell → Nat → Byte → List Host.Cell
  | [], a, b => [(a, b)]
  | (k, c) :: rest, a, b =>
    if a < k then (a, b) :: (k, c) :: rest
    else if a = k then (a, b) :: rest
    else (k, c) :: insertByte rest a b

/-- Every address of the list is at least `low`, and the addresses rise strictly and are 32-bit. -/
def sortedFrom : Nat → List Host.Cell → Bool
  | _, [] => true
  | low, (k, _) :: rest => decide (low ≤ k) && decide (k < 2 ^ 32) && sortedFrom (k + 1) rest

/-- The canonical form of memory: strictly rising 32-bit addresses. An unlisted address reads as nothing, so no listed
entry equals what an unlisted address reads as. -/
def memoryWf (mem : List Host.Cell) : Bool := sortedFrom 0 mem

/-- One byte as memory holds it. A byte nothing has stored has no value, or, where the configuration takes unwritten
words as draws, the free value of this reset and address (rules R73, R262; log 5). -/
def readByte (s : State) (a : Addr) : Option Byte :=
  match lookupByte s.mem a.toNat with
  | some b => some b
  | none =>
    match s.cfg.unwritten with
    | .stop => none
    | .draw => some (Config.freeByte s.env.epoch a.toNat)

/-- `MemRead(addr, 4)` (rules R10, R63), little-endian (rule R62); none when some byte has no value. -/
def memRead (s : State) (a : Addr) : Option Word :=
  match readByte s a, readByte s (a + 1), readByte s (a + 2), readByte s (a + 3) with
  | some b0, some b1, some b2, some b3 => some (b3 ++ b2 ++ b1 ++ b0)
  | _, _, _, _ => none

/-- Memory with a word stored at an address, little-endian (rule R62). -/
def storeWord (mem : List Host.Cell) (a : Addr) (w : Word) : List Host.Cell :=
  insertByte
    (insertByte
      (insertByte (insertByte mem a.toNat (w.extractLsb' 0 8)) (a + 1).toNat (w.extractLsb' 8 8))
      (a + 2).toNat (w.extractLsb' 16 8))
    (a + 3).toNat (w.extractLsb' 24 8)

/-- `MemWrite(addr, 4, v)` (rules R10, R63). -/
def memWrite (s : State) (a : Addr) (w : Word) : State := { s with mem := storeWord s.mem a w }

/-- The byte address of frame word `k` of the buffer at `base` (rule R60). -/
def wordAddr (base : Addr) (k : Nat) : Addr := base + BitVec.ofNat 32 (4 * k)

/-! ## Faults, reset, replies -/

/-- `raise F()` (rule R231): the cause is recorded and the block enters `FAILED`; the rest of the operation is
abandoned by the caller. -/
def raiseFault (s : State) (c : Cause) : State := { s with sys := { state := .failed, cause := c } }

/-- The return from `FAILED`, and from anything else: `RESET` (rules R231, R260 to R262). The configuration and the
schedule stay; the next epoch names the new unspecified memory contents (log 5). -/
def resetBlock (s : State) : State :=
  State.resetWith s.cfg
    { s.env with
      epoch := s.env.epoch + 1
      replies := []
      genUntil := 0
      outAt := []
      ctxWritten := false
      raddrWritten := false }

/-- A word crosses the host reply port (rule R57). -/
def replyWord (s : State) (w : Word) : State := { s with env := { s.env with replies := s.env.replies ++ [w] } }

/-- The read of a register with no value: the next draw crosses the reply port (rules R10, R45, R47). -/
def replyDraw (s : State) : State :=
  { s with
    env := { s.env with replies := s.env.replies ++ [Config.freeWord s.env.draws], draws := s.env.draws + 1 } }

/-! ## Queue and trace (rule R10) -/

/-- `push(gen.inq, w)`. -/
def pushInq (g : Gen) (w : Word) : Gen := { g with inq := g.inq ++ [w] }

/-- `emit(sym)` (rule R36), starting at a time that is recorded in the timed reading. -/
def emitSymbol (s : State) (sym : LineSymbol) (start : Nat) : State :=
  { s with
    out := s.out ++ [sym]
    env := { s.env with outAt := if s.cfg.timed then s.env.outAt ++ [start] else s.env.outAt } }

/-! ## The Refresh Context and the transfer engine -/

/-- `SWAP` (rule R150): between transfers, when a finished off-screen frame waits; otherwise nothing. -/
def swapSlots (s : State) : State :=
  if s.ctx.swapReq = true ∧ s.dma.busy = false ∧ s.dma.pending = false then
    { s with
      ctx :=
        { s.ctx with
          cur := otherSlot s.ctx.cur
          addr := slotAddr s.cfg (otherSlot s.ctx.cur)
          swapReq := false } }
  else s

/-- A trigger request is discarded and counted (rules R147, R162, R163). -/
def dropTrigger (s : State) : State := { s with sch := { s.sch with dropped := s.sch.dropped + 1 } }

/-- A transfer of `N + 1` words starts at an address (rule R161). -/
def startTransfer (s : State) (addr : Addr) : State :=
  { s with
    dma := { s.dma with raddr := addr, remaining := frameWords s.cfg, busy := true }
    env := { s.env with raddrWritten := true } }

/-- `TRIGGER` as the engine accepts it (rules R161, R162, R163). -/
def triggerEngine (s : State) (addr : Addr) : State :=
  if s.dma.busy = false then startTransfer s addr
  else
    match s.cfg.busyPolicy with
    | .drop => dropTrigger s
    | .queue =>
      if s.dma.pending = false then { s with dma := { s.dma with pending := true, pendAddr := addr } }
      else dropTrigger s

/-- `complete` (rule R165): the queued transfer starts, or the engine goes idle. -/
def completeTransfer (s : State) : State :=
  if s.cfg.busyPolicy = .queue ∧ s.dma.pending = true then
    { s with dma := { s.dma with raddr := s.dma.pendAddr, remaining := frameWords s.cfg, pending := false } }
  else { s with dma := { s.dma with busy := false } }

/-- `XFER`, lines 2 to 4 (rule R164): the word goes to the generator, the engine moves on by one word. -/
def deliverWord (s : State) (w : Word) : State :=
  { s with
    dma := { s.dma with raddr := s.dma.raddr + 4, remaining := s.dma.remaining - 1 }
    gen := pushInq s.gen w }

/-- `XFER`, lines 2 to 5 (rules R164, R165). -/
def moveWord (s : State) (w : Word) : State :=
  if s.dma.remaining - 1 = 0 then completeTransfer (deliverWord s w) else deliverWord s w

/-! ## The signal generator -/

/-- How long a symbol takes in the timed reading (rules R185, R269). -/
def symbolTime (c : Config) : LineSymbol → Nat
  | .sym0 => c.t0h + c.t0l
  | .sym1 => c.t1h + c.t1l
  | .symRst => c.tReset

/-- The waveform of a symbol (rules R86, R185): levels, `true` is high, each with its duration; a duration of zero is
kept as it is (log 29). -/
def symbolWaveform (c : Config) : LineSymbol → List (Bool × Nat)
  | .sym0 => [(true, c.t0h), (false, c.t0l)]
  | .sym1 => [(true, c.t1h), (false, c.t1l)]
  | .symRst => [(false, c.tReset)]

/-- The symbol of a payload bit (rule R86). -/
def bitSymbol (b : Bool) : LineSymbol := if b then .sym1 else .sym0

/-- The generator is inside a step for this long from `start` (rule R269), timed reading only. The step's register
writes show from its start: DESIGN CHOICE (log 28), unsafe. -/
def holdGenerator (s : State) (start duration : Nat) : State :=
  { s with env := { s.env with genUntil := if s.cfg.timed then start + duration else s.env.genUntil } }

/-- `GEN.HDR` (rule R181): the head of the queue is taken as the header, its low byte ignored. -/
def takeHeader (s : State) : State :=
  match s.gen.inq with
  | [] => s
  | w :: rest =>
    { s with
      gen := { s.gen with inq := rest, bitsLeft := (headerCount w).setWidth 25 + 1, phase := .pix } }

/-- `GEN.PIX` (rule R182): the head of the queue is taken as a colour word. -/
def takeColour (s : State) : State :=
  match s.gen.inq with
  | [] => s
  | w :: rest => { s with gen := { s.gen with inq := rest, osr := w, osrCnt := 24, phase := .bit } }

/-- The phase after one bit (rule R183, line 6), from the counts after it. -/
def phaseAfterBit (bitsLeft : BitVec 25) (osrCnt : BitVec 5) : Phase :=
  if bitsLeft = 0 then .rst else if osrCnt = 0 then .pix else .bit

/-- The registers after one bit is shifted out (rule R183, lines 3 to 6). -/
def shiftOut (g : Gen) : Gen :=
  { g with
    osr := g.osr <<< 1
    osrCnt := g.osrCnt - 1
    bitsLeft := g.bitsLeft - 1
    phase := phaseAfterBit (g.bitsLeft - 1) (g.osrCnt - 1) }

/-- `GEN.BIT` (rules R183, R185, R186): bit 31 of the shift register goes out, its symbol starting now. -/
def sendBit (s : State) : State :=
  holdGenerator
    (emitSymbol { s with gen := shiftOut s.gen } (bitSymbol (s.gen.osr.getLsbD 31)) s.env.now)
    s.env.now (symbolTime s.cfg (bitSymbol (s.gen.osr.getLsbD 31)))

/-- `GEN.RST` (rule R184): the reset interval goes out. -/
def sendReset (s : State) : State :=
  holdGenerator (emitSymbol { s with gen := { s.gen with phase := .hdr } } .symRst s.env.now) s.env.now
    (symbolTime s.cfg .symRst)

end Sys2Proof.Machine
end

