-- ==== Sys2Proof/Machine/Builder.lean ====
section
/-! DEFINITION. Sys2Proof/Machine/Builder.lean: `BUILD`, `BLD.HDR` and `BLD.PIX` (41_frame_builder.md). -/

namespace Sys2Proof.Machine

/-- `ctx.swap_req` once a `BUILD` starts (rule R120, line 4): with two buffers cleared (rule R130). -/
def swapAtStart : Buffers → Bool → Bool
  | .single, waiting => waiting
  | .double, _ => false

/-- `ctx.swap_req` once a `BUILD` is over (rule R122, line 6): with two buffers set. -/
def swapAtEnd : Buffers → Bool → Bool
  | .single, waiting => waiting
  | .double, _ => true

/-- `BUILD`, lines 1 to 5 (rules R120, R130), for finite operands. -/
def startBuild (s : State) (h sat v : Rat) : State :=
  { s with
    bld :=
      { active := true
        idx := 0
        cursor := h
        s := sat
        v := v
        step := hueStep s.cfg.arith s.cfg.n
        base := buildBase s.cfg s.ctx.cur }
    ctx := { s.ctx with swapReq := swapAtStart s.cfg.buffers s.ctx.swapReq } }

/-- `BUILD h, s, v` (rule R120): enabled in `RESET` and `READY` while no build is active; non-finite operands are
refused (rule R112), out-of-range ones are not looked at (rule R240). -/
def execBuild (h s v : Operand) (st : State) : Host.Outcome State Fault Refusal :=
  if hostOpen st then
    match operandValues st.cfg.arith h s v with
    | none => .refused .nonFinite
    | some (h', s', v') => .next (startBuild st h' s' v')
  else .next st

/-- `BLD.HDR`, lines 1 and 2 (rule R121). -/
def storeHeader (s : State) : State :=
  { memWrite s s.bld.base (header s.cfg.n) with bld := { s.bld with idx := 1 } }

/-- `BLD.HDR` (rule R121). -/
def execBldHdr (s : State) : Host.Outcome State Fault Refusal :=
  if canBldHdr s then .next (storeHeader s) else .next s

/-- The address `BLD.PIX` stores to (rule R122, line 2). -/
def pixelAddr (s : State) : Addr := wordAddr s.bld.base s.bld.idx.toNat

/-- `BLD.PIX`, lines 1 to 5 (rule R122): one colour word stored, the cursor advanced, the index stepped. -/
def storePixel (s : State) : State :=
  { memWrite s (pixelAddr s) (conv s.cfg.arith s.bld.cursor s.bld.s s.bld.v) with
    bld :=
      { s.bld with
        cursor := advanceCursor s.cfg.arith s.bld.cursor s.bld.step
        idx := s.bld.idx + 1 } }

/-- `BLD.PIX`, line 6 (rules R122, R124): the build is over, and with two buffers asks for the swap. -/
def finishBuild (s : State) : State :=
  { s with
    bld := { s.bld with active := false }
    ctx := { s.ctx with swapReq := swapAtEnd s.cfg.buffers s.ctx.swapReq } }

/-- `BLD.PIX` (rule R122). -/
def execBldPix (s : State) : Host.Outcome State Fault Refusal :=
  if canBldPix s then
    if (storePixel s).bld.idx = frameWords s.cfg then .next (finishBuild (storePixel s)) else .next (storePixel s)
  else .next s

end Sys2Proof.Machine
end

