-- ==== Sys2Proof/Machine/Converter.lean ====
section
/-! DEFINITION. Sys2Proof/Machine/Converter.lean: the host operation `CONV` (40_color_converter.md). -/

namespace Sys2Proof.Machine

/-- `CONV h, s, v` (rule R100): enabled in every `sys.state`; non-finite operands are refused (rule R112); the colour
word is the reply and nothing else changes (rule R110). -/
def execConv (h s v : Operand) (st : State) : Host.Outcome State Fault Refusal :=
  if hostFree st then
    match operandValues st.cfg.arith h s v with
    | none => .refused .nonFinite
    | some (h', s', v') => .next (replyWord st (conv st.cfg.arith h' s' v'))
  else .next st

end Sys2Proof.Machine
end

