-- ==== Sys2Proof/Machine/Engine.lean ====
section
/-! DEFINITION. Sys2Proof/Machine/Engine.lean: `TRIGGER` and `XFER` (43_transfer_engine.md). -/

namespace Sys2Proof.Machine

/-- `TRIGGER chan, addr` as a step of its own (rules R161 to R163, R167): the block owns the one channel `INIT` has
claimed, so before `INIT` the step is not enabled (log 12); a foreign channel is refused, and so is a misaligned buffer
(rule R64). An aligned address whose words run past the top of the address space is accepted, and the address wraps
(rule R169): DESIGN CHOICE (log 30), safe. -/
def execTrigger (chan : Nat) (addr : Addr) (s : State) : Host.Outcome State Fault Refusal :=
  if canTrigger s then
    if chan ≠ s.ctx.chan then .refused (.foreignChannel chan)
    else if addr.toNat % 4 ≠ 0 then .refused (.misalignedBuffer addr)
    else .next (triggerEngine s addr)
  else .next s

/-- `XFER` (rules R164, R165): one word from memory to the generator; `UNWRITTEN_READ` where the word has no value
(rule R73). -/
def execXfer (s : State) : Host.Outcome State Fault Refusal :=
  if canXfer s then
    match memRead s s.dma.raddr with
    | none => .fault (.unwrittenRead s.dma.raddr)
    | some w => .next (moveWord s w)
  else .next s

end Sys2Proof.Machine
end

