-- ==== Sys2Proof/Machine/Formats.lean ====
section
/-! DEFINITION. Sys2Proof/Machine/Formats.lean: the frame words `W-HDR` and `W-PIX` and the line symbols `SYM0`,
`SYM1`, `SYMRST` (30_encoding.md).

The hardware of the block decodes the words and emits the symbols (rule R81, 30_encoding.md): a word has its meaning
at the step in which the generator takes it from its input, a symbol at the step in which the generator emits it. So
the step of a word is the generator step that takes exactly this word, and the step of a symbol the generator step that
emits exactly it; elsewhere nothing happens (log 14). -/

namespace Sys2Proof.Machine

/-- `W-HDR` (rules R81, R82, R181): the word at the head of the generator's input, taken as the header. -/
def execWHdr (count : BitVec 24) (low : Byte) (s : State) : Host.Outcome State Fault Refusal :=
  if takesHeader s (count ++ low) then .next (takeHeader s) else .next s

/-- `W-PIX` (rules R81, R83, R182): the word at the head of the generator's input, taken as a colour word. -/
def execWPix (g r b unused : Byte) (s : State) : Host.Outcome State Fault Refusal :=
  if takesColour s (g ++ r ++ b ++ unused) then .next (takeColour s) else .next s

/-- `SYM0` (rules R86, R183): the bit that goes out is 0. -/
def execSym0 (s : State) : Host.Outcome State Fault Refusal :=
  if emitsBit s false then .next (sendBit s) else .next s

/-- `SYM1` (rules R86, R183): the bit that goes out is 1. -/
def execSym1 (s : State) : Host.Outcome State Fault Refusal :=
  if emitsBit s true then .next (sendBit s) else .next s

/-- `SYMRST` (rules R86, R184): the reset interval goes out. -/
def execSymRst (s : State) : Host.Outcome State Fault Refusal :=
  if canGenRst s then .next (sendReset s) else .next s

end Sys2Proof.Machine
end

