-- ==== Sys2Proof/Machine/Generator.lean ====
section
/-! DEFINITION. Sys2Proof/Machine/Generator.lean: `GEN.HDR`, `GEN.PIX`, `GEN.BIT`, `GEN.RST`
(44_signal_generator.md). -/

namespace Sys2Proof.Machine

/-- `GEN.HDR` (rule R181). -/
def execGenHdr (s : State) : Host.Outcome State Fault Refusal :=
  if canGenHdr s then .next (takeHeader s) else .next s

/-- `GEN.PIX` (rule R182). -/
def execGenPix (s : State) : Host.Outcome State Fault Refusal :=
  if canGenPix s then .next (takeColour s) else .next s

/-- `GEN.BIT` (rule R183). -/
def execGenBit (s : State) : Host.Outcome State Fault Refusal :=
  if canGenBit s then .next (sendBit s) else .next s

/-- `GEN.RST` (rule R184). -/
def execGenRst (s : State) : Host.Outcome State Fault Refusal :=
  if canGenRst s then .next (sendReset s) else .next s

end Sys2Proof.Machine
end

