-- ==== Sys2Proof/Machine/Scheduler.lean ====
section
/-! DEFINITION. Sys2Proof/Machine/Scheduler.lean: `ARM`, `TICK`, `IRQ` and `SWAP` (42_refresh_scheduler.md). -/

namespace Sys2Proof.Machine

/-- `ARM`, lines 3 and 4 (rule R141); the deadline is of the timed reading. -/
def armTimer (s : State) : State :=
  { s with
    sch :=
      { s.sch with
        state := .armed
        deadline := if s.cfg.timed then s.env.now + s.cfg.tickPeriod else s.sch.deadline } }

/-- `ARM` (rule R141): `GenNotInit` before `INIT` has succeeded (rule R232), refused a second time. -/
def execArm (s : State) : Host.Outcome State Fault Refusal :=
  if hostOpen s then
    if s.sys.state = .reset then .next (raiseFault s .genNotInit)
    else if s.sch.state = .armed then .refused .secondArm
    else .next (armTimer s)
  else .next s

/-- `TICK` (rule R142): the interrupt request rises. -/
def raiseTick (s : State) : State := { s with sch := { s.sch with irqPending := true } }

/-- `TICK` (rule R142). -/
def execTick (s : State) : Host.Outcome State Fault Refusal :=
  if canTick s then .next (raiseTick s) else .next s

/-- `IRQ`, line 1 (rules R143, R234): the handler lowers the request. -/
def clearTick (s : State) : State := { s with sch := { s.sch with irqPending := false } }

/-- `IRQ`, line 2 (rule R143): with two buffers, the swap. -/
def handlerSwap (s : State) : State :=
  match s.cfg.buffers with
  | .single => s
  | .double => swapSlots s

/-- `IRQ`, line 4 (rules R143, R148): "requests the next tick", timed reading only. -/
def nextDeadline (s : State) : State :=
  { s with
    sch := { s.sch with deadline := if s.cfg.timed then s.sch.deadline + s.cfg.tickPeriod else s.sch.deadline } }

/-- Taking the tick interrupt (rules R143, R236 to R238): the whole handler, one step; its return is the step's end. -/
def tickHandler (s : State) : State :=
  nextDeadline (triggerEngine (handlerSwap (clearTick s)) (handlerSwap (clearTick s)).ctx.addr)

/-- `IRQ` (rule R143). -/
def execIrq (s : State) : Host.Outcome State Fault Refusal :=
  if canIrq s then .next (tickHandler s) else .next s

/-- `SWAP` as a step of its own (rule R150): it is there only when `BUFFERS = 2`. -/
def execSwap (s : State) : Host.Outcome State Fault Refusal :=
  if canSwap s then .next (swapSlots s) else .next s

end Sys2Proof.Machine
end

