-- ==== Sys2Proof/Machine/Setup.lean ====
section
/-! DEFINITION. Sys2Proof/Machine/Setup.lean: the host operations `INIT` and `RDCSR` (45_setup_and_host.md).

Here and in every family: an operation that is not enabled is stuck in the sense of rule R11, "nothing happens", so its
step is the unchanged state (log 13). -/

namespace Sys2Proof.Machine

/-- `ctx.swap_req` after `INIT`: cleared (rule R210, line 3), or, in the other reading (rule R263; log 19), still set
where the frame that waits is in slot 1, slot 0 being live now. -/
def swapAtInit (reading : InitSwap) (ctx : Ctx) : Bool :=
  match reading with
  | .clears => false
  | .keeps => ctx.swapReq && decide (ctx.cur = .zero)

/-- `INIT`, lines 3 to 7 (rule R210). -/
def claimResources (s : State) : State :=
  { s with
    ctx := { chan := s.cfg.chan, addr := s.cfg.bufAddr, cur := .zero, swapReq := swapAtInit s.cfg.initSwap s.ctx }
    dma := { s.dma with busy := false, remaining := 0, pending := false }
    gen := { s.gen with init := true, inq := [], phase := .hdr, osrCnt := 0, bitsLeft := 0 }
    sys := { s.sys with state := .ready }
    env := { s.env with ctxWritten := true } }

/-- `INIT` (rule R210): the channel is checked before the generator; refused a second time, stuck in `FAILED`. -/
def execInit (chanFree genFree : Bool) (s : State) : Host.Outcome State Fault Refusal :=
  if hostFree s then
    match s.sys.state with
    | .reset =>
      if chanFree then
        if genFree then .next (claimResources s) else .next (raiseFault s .noGenerator)
      else .next (raiseFault s .noChannel)
    | .ready => .refused .secondInit
    | .failed => .next s
  else .next s

/-- `RDCSR n` (rule R213): the reply is `CSR[n]`, or a draw where the register has no value yet (rules R45, R47). -/
def execRdcsr (n : Nat) (s : State) : Host.Outcome State Fault Refusal :=
  if hostFree s then
    match csr s n with
    | none => .refused (.noSuchCsr n)
    | some w => if csrUnspecified s n then .next (replyDraw s) else .next (replyWord s w)
  else .next s

end Sys2Proof.Machine
end

