-- ==== Sys2Proof/Machine/Dispatch.lean ====
section
/-! DEFINITION. Sys2Proof/Machine/Dispatch.lean: one arm per instruction. -/

namespace Sys2Proof.Machine

def exec (i : Instr) (s : State) : Host.Outcome State Fault Refusal :=
  match i with
  | .reset => Sys2Proof.Machine.execReset s
  | .init chanFree genFree => Sys2Proof.Machine.execInit chanFree genFree s
  | .conv hue sat val => Sys2Proof.Machine.execConv hue sat val s
  | .build hue sat val => Sys2Proof.Machine.execBuild hue sat val s
  | .bldHdr => Sys2Proof.Machine.execBldHdr s
  | .bldPix => Sys2Proof.Machine.execBldPix s
  | .arm => Sys2Proof.Machine.execArm s
  | .tick => Sys2Proof.Machine.execTick s
  | .irq => Sys2Proof.Machine.execIrq s
  | .trigger chan addr => Sys2Proof.Machine.execTrigger chan addr s
  | .xfer => Sys2Proof.Machine.execXfer s
  | .genHdr => Sys2Proof.Machine.execGenHdr s
  | .genPix => Sys2Proof.Machine.execGenPix s
  | .genBit => Sys2Proof.Machine.execGenBit s
  | .genRst => Sys2Proof.Machine.execGenRst s
  | .rdcsr n => Sys2Proof.Machine.execRdcsr n s
  | .swap => Sys2Proof.Machine.execSwap s
  | .wHdr count low => Sys2Proof.Machine.execWHdr count low s
  | .wPix g r b unused => Sys2Proof.Machine.execWPix g r b unused s
  | .sym0 => Sys2Proof.Machine.execSym0 s
  | .sym1 => Sys2Proof.Machine.execSym1 s
  | .symRst => Sys2Proof.Machine.execSymRst s

end Sys2Proof.Machine
end

