-- ==== Sys2Proof/Machine/Fetch.lean ====
section
/-! DEFINITION. Sys2Proof/Machine/Fetch.lean: taking the next entry of the schedule, and placing one.

The block fetches no instructions (rule R30): which enabled agent steps next is the environment's choice (rules R7, R20,
R216), and the schedule holds that choice as plain data (log 2). -/

namespace Sys2Proof.Machine

/-- The time after `dt` has passed, in the timed reading only (log 9). Inside a word it goes no further than the end of
the bit being sent, where the next bit starts without a gap (rule R185). -/
def timeAfter (s : State) (dt : Nat) : Nat :=
  if s.cfg.timed then
    if midWord s then max s.env.now (min (s.env.now + dt) s.env.genUntil) else s.env.now + dt
  else s.env.now

/-- Time passes before a step. -/
def passTime (s : State) (dt : Nat) : State := { s with env := { s.env with now := timeAfter s dt } }

/-- The next entry: the oldest of the schedule, or, where none is given, the environment's free choice. -/
def nextEntry (s : State) : Entry :=
  match s.env.sched with
  | [] => Config.freeEntry s.env.draws
  | e :: _ => e

/-- The state once the next entry is taken: the schedule moves on, or one draw is taken. -/
def takeEntry (s : State) : State :=
  match s.env.sched with
  | [] => { s with env := { s.env with draws := s.env.draws + 1 } }
  | _ :: rest => { s with env := { s.env with sched := rest } }

/-- The state an entry's instruction runs in: the entry taken, its time passed. -/
def fetched (s : State) : State := passTime (takeEntry s) (nextEntry s).dt

/-- The instruction of the next entry; a word is decoded by the generator's phase (rule R81). -/
def fetchInstr (s : State) : Except DecodeError Instr :=
  decodeItem (wordPosition s.gen.phase) (nextEntry s).item

/-- One step of the machine: a configuration the spec refuses is refused (rule R64), an entry that names nothing is
refused by name, an instruction is executed. -/
def stepOnce (s : State) : Host.Outcome State Fault Refusal :=
  if configOk s.cfg then
    match fetchInstr s with
    | .error e => .refused (.undecodable e)
    | .ok i => exec i (fetched s)
  else .refused .badConfig

/-- The schedule with one item placed before everything else. -/
def placeEntry (s : State) (item : Item) : State :=
  { s with env := { s.env with sched := { dt := 0, item := item } :: s.env.sched } }

/-- A state in which the generator is about to take a word in the position it is read in (log 11). -/
def placeWord (s : State) (pos : Position) (w : Word) : State :=
  match pos with
  | .header => { s with gen := { s.gen with inq := [w], phase := .hdr } }
  | .colour => { s with gen := { s.gen with inq := [w], phase := .pix, bitsLeft := 24 } }

/-- A state in which the generator is about to emit a symbol (log 11). -/
def placeSymbol (s : State) (code : Nat) : State :=
  match code % 4 with
  | 0 => { s with gen := { s.gen with osr := 0, osrCnt := 24, bitsLeft := 24, phase := .bit } }
  | 1 => { s with gen := { s.gen with osr := 0x80000000, osrCnt := 24, bitsLeft := 24, phase := .bit } }
  | 2 => { s with gen := { s.gen with phase := .rst } }
  | _ => s

/-- The state with an instruction of the table placed where the next step takes its entry. For a frame word and a line
symbol the generator is put where that word is taken and that symbol emitted (log 11). -/
def placeTableWord (s : State) (nbits w : Nat) : State :=
  if nbits = 32 then
    placeEntry (placeWord s (tablePosition (BitVec.ofNat 32 w)) (BitVec.ofNat 32 w)) (tableItem nbits w)
  else if nbits < 8 then placeEntry (placeSymbol s w) (tableItem nbits w)
  else placeEntry s (tableItem nbits w)

end Sys2Proof.Machine
end

