-- ==== Sys2Proof/Machine/Step.lean ====
section
/-! DEFINITION. Sys2Proof/Machine/Step.lean: the step of the machine, and how an instruction is placed before it. -/

namespace Sys2Proof.Machine

/-- One step: the next entry of the schedule is taken and its instruction executed. -/
def step (s : State) : Host.Outcome State Fault Refusal := stepOnce s

/-- `s` with the instruction of the table whose bits are `w` placed where `step` takes its next entry. -/
def State.withFetchWord (s : State) (nbits w : Nat) : State := placeTableWord s nbits w

end Sys2Proof.Machine
end

