-- ==== Sys2Proof/Machine/Pseudo.lean ====
section
/-! DEFINITION. Sys2Proof/Machine/Pseudo.lean: the lines of a listing (rule R92) and the pseudo-operations (rule R93),
as abstract syntax, with what they run.

A listing lets no time pass: DESIGN CHOICE (log 26), safe. In the timed reading a `DRAIN` therefore stops inside the first
symbol it emits, and a `TICK` before its deadline does nothing; time passes in the steps of a schedule (`passTime`). -/

namespace Sys2Proof.Machine

/-- One line of a listing (rules R92, R93). -/
inductive Line where
  /-- A line that names its operation. -/
  | op (i : Instr)
  /-- `@BLD STEP`. -/
  | bldStep
  /-- `@GEN STEP`. -/
  | genStep
  /-- `BUILD! h, s, v`. -/
  | buildAll (h s v : Operand)
  /-- `REFRESH`. -/
  | refresh
  /-- `DRAIN`. -/
  | drain
  /-- `FRAME`. -/
  | frame
  deriving DecidableEq, Repr

/-- The one `BLD` operation the sequencing state selects (rules R30, R92). -/
def bldStepInstr (s : State) : Instr := if s.bld.idx = 0 then .bldHdr else .bldPix

/-- The one `GEN` operation the phase selects (rules R30, R92, R180). -/
def genStepInstr (s : State) : Instr :=
  match s.gen.phase with
  | .hdr => .genHdr
  | .pix => .genPix
  | .bit => .genBit
  | .rst => .genRst

/-- One outcome after another: what stops, stops. -/
def andThen (o : Host.Outcome State Fault Refusal) (f : State → Host.Outcome State Fault Refusal) :
    Host.Outcome State Fault Refusal :=
  match o with
  | .next s => f s
  | .fault r => .fault r
  | .refused r => .refused r

/-- A list of instructions, one after another. -/
def runInstrs : List Instr → State → Host.Outcome State Fault Refusal
  | [], s => .next s
  | i :: rest, s => andThen (exec i s) (runInstrs rest)

/-- `count` steps of the builder (rule R93). -/
def runBuilder : Nat → State → Host.Outcome State Fault Refusal
  | 0, s => .next s
  | count + 1, s => andThen (exec (bldStepInstr s) s) (runBuilder count)

/-- `DRAIN` (rule R93): `XFER` if enabled, else the generator's step if enabled, until neither is; `fuel` bounds how
many steps are taken, and no time passes (log 26). -/
def drain : Nat → State → Host.Outcome State Fault Refusal
  | 0, s => .next s
  | fuel + 1, s =>
    if canXfer s then andThen (exec .xfer s) (drain fuel)
    else if enabled s (genStepInstr s) then andThen (exec (genStepInstr s) s) (drain fuel)
    else .next s

/-- A line of a listing, run; `fuel` bounds a `DRAIN`. -/
def runLine (fuel : Nat) : Line → State → Host.Outcome State Fault Refusal
  | .op i, s => exec i s
  | .bldStep, s => exec (bldStepInstr s) s
  | .genStep, s => exec (genStepInstr s) s
  | .buildAll h sat v, s => andThen (exec (.build h sat v) s) (runBuilder (s.cfg.n + 1))
  | .refresh, s => runInstrs [.tick, .irq] s
  | .drain, s => drain fuel s
  | .frame, s => andThen (runInstrs [.tick, .irq] s) (drain fuel)

/-- A listing, line by line. -/
def runLines (fuel : Nat) : List Line → State → Host.Outcome State Fault Refusal
  | [], s => .next s
  | line :: rest, s => andThen (runLine fuel line s) (runLines fuel rest)

/-- A run of the machine (rule R216): `count` steps, each taking the next entry of the schedule. -/
def runSteps : Nat → State → Host.Outcome State Fault Refusal
  | 0, s => .next s
  | count + 1, s => andThen (step s) (runSteps count)

end Sys2Proof.Machine
end

