-- ==== Sys2Proof/Safety.lean ====
section
/-! DEFINITION. Sys2Proof/Safety.lean: the terms claims are stated in: the observation of a run, frame boundaries, the
serial image, the invariants of the block, and the conditions of the timed reading. -/

namespace Sys2Proof.Machine

/-! ## Observation (rules R216, R217) -/

/-- Symbols with their start times, as far as there are times. -/
def withStarts : List LineSymbol → List Nat → List (LineSymbol × Option Nat)
  | [], _ => []
  | sym :: syms, [] => (sym, none) :: withStarts syms []
  | sym :: syms, start :: starts => (sym, some start) :: withStarts syms starts

/-- `OUT` as rule R36 has it: in the timed reading each element carries its start time. -/
def observedOut (s : State) : List (LineSymbol × Option Nat) := withStarts s.out (if s.cfg.timed then s.env.outAt else [])

/-- The observation of a run (rule R216). -/
structure Observation where
  out : List (LineSymbol × Option Nat)
  state : SysState
  dropped : Word
  deriving DecidableEq, Repr

/-- What a run is observed by (rule R216): the trace, `sys.state` and `sch.dropped`. -/
def observe (s : State) : Observation := { out := observedOut s, state := s.sys.state, dropped := s.sch.dropped }

/-- A frame boundary (rule R217). -/
def FrameBoundary (s : State) : Prop :=
  s.dma.busy = false ∧ s.dma.pending = false ∧ s.gen.inq = [] ∧ s.gen.phase = .hdr

/-! ## Serial images (rules R87, R193) -/

/-- `count` payload bits of a word from the top, most significant first. -/
def leadingBits : Nat → Word → List LineSymbol
  | 0, _ => []
  | count + 1, w => bitSymbol (w.getLsbD 31) :: leadingBits count (w <<< 1)

/-- The 24 payload bits of a colour word, `w[31]` down to `w[8]` (rule R87). -/
def payload (w : Word) : List LineSymbol := leadingBits 24 w

/-- The serial image of a frame's colour words: their payloads, then one reset interval (rules R87, R193). -/
def serialImage (colours : List Word) : List LineSymbol := (colours.map payload).flatten ++ [.symRst]

/-! ## The hue cursor over a frame (rules R123, R129, R132) -/

/-- The cursor of pixel `k` of a build with this step and seed. -/
def cursorAt (a : Arith) (step : Rat) : Nat → Rat → Rat
  | 0, h => h
  | k + 1, h => advanceCursor a (cursorAt a step k h) step

/-! ## Values of a binary format (rule R101)

A format has significands of `p` bits and no bit below `2^lowest`; no run meets its upper end (log 10). -/

/-- `x` is a value of the format. -/
def InFormat (p : Nat) (lowest : Int) (x : Rat) : Prop :=
  ∃ m e : Int, m.natAbs < 2 ^ p ∧ lowest ≤ e ∧ x = (m : Rat) * (2 : Rat) ^ e

/-- `x` is a value of the format whose significand, all `p` bits of it used or its last bit being the lowest there is,
is even. -/
def EvenInFormat (p : Nat) (lowest : Int) (x : Rat) : Prop :=
  ∃ m e : Int,
    m.natAbs < 2 ^ p ∧ lowest ≤ e ∧ (2 ^ (p - 1) ≤ m.natAbs ∨ e = lowest) ∧ 2 ∣ m ∧ x = (m : Rat) * (2 : Rat) ^ e

/-- `round` takes every rational to a value of the format that none is nearer to, and of two that are equally near to
the even one. -/
def RoundsToNearestEven (p : Nat) (lowest : Int) (round : Rat → Rat) : Prop :=
  ∀ q : Rat,
    InFormat p lowest (round q) ∧
    ∀ x : Rat, InFormat p lowest x →
      |round q - q| ≤ |x - q| ∧ (x ≠ round q → |x - q| = |round q - q| → EvenInFormat p lowest (round q))

/-! ## Invariants -/

/-- What the registers of rules R21 to R27 keep to in every state a run reaches. -/
structure RegistersOk (s : State) : Prop where
  /-- The configuration is one the spec gives a meaning (rules R8, R64, R67). -/
  config : configOk s.cfg = true
  /-- Memory is in its canonical form. -/
  memory : memoryWf s.mem = true
  /-- `bld.idx` is within 0..N+1 (rules R24, R30), and within 0..N while a build is active. -/
  idx : s.bld.idx.toNat ≤ s.cfg.n + 1
  building : s.bld.active = true → s.bld.idx.toNat ≤ s.cfg.n
  /-- The builder stores into the one buffer, or into the slot that is not live (rules R120, R130). -/
  base : s.bld.active = true → s.bld.base = buildBase s.cfg s.ctx.cur
  /-- `dma.remaining` is within 0..N+1 (rules R26, R30), and the engine is busy exactly when words remain (rule R26). -/
  remaining : s.dma.remaining.toNat ≤ s.cfg.n + 1
  busy : s.dma.busy = true ↔ 0 < s.dma.remaining.toNat
  /-- A request waits only behind a running transfer, and only where the policy queues (rules R31, R44, R163). -/
  pending : s.dma.pending = true → s.dma.busy = true ∧ s.cfg.busyPolicy = .queue
  /-- The generator's queue holds at most `IN_DEPTH` words (rule R27). -/
  queue : s.gen.inq.length ≤ s.cfg.inDepth
  /-- `gen.osr_cnt` is within 0..24 and `gen.bits_left` within 0..2^24 (rule R27). -/
  shiftCount : s.gen.osrCnt.toNat ≤ 24
  bitsLeft : s.gen.bitsLeft.toNat ≤ 2 ^ 24
  /-- In `BIT` both counts are at least 1 (rule R183); in `PIX` bits are left; in `HDR` and `RST` none are. -/
  phaseBit : s.gen.phase = .bit → 1 ≤ s.gen.osrCnt.toNat ∧ 1 ≤ s.gen.bitsLeft.toNat
  phasePix : s.gen.phase = .pix → 1 ≤ s.gen.bitsLeft.toNat
  phaseIdle : s.gen.phase = .hdr ∨ s.gen.phase = .rst → s.gen.bitsLeft = 0
  /-- A swap waits only with two buffers and while no build is active (rules R22, R130). -/
  swapWaits : s.ctx.swapReq = true → s.cfg.buffers = .double ∧ s.bld.active = false
  /-- With one buffer slot 0 is live (rule R23). -/
  single : s.cfg.buffers = .single → s.ctx.cur = .zero
  /-- Once `INIT` has succeeded the Refresh Context names the channel and the live slot (rules R22, R210). -/
  context : s.sys.state = .ready → s.ctx.addr = slotAddr s.cfg s.ctx.cur ∧ s.ctx.chan = s.cfg.chan
  /-- The generator is initialized exactly in `READY` (rules R21, R27, R210). -/
  init : s.sys.state = .ready ↔ s.gen.init = true
  /-- Before and without `INIT` the engine and the generator do nothing (rule R194). -/
  unclaimed : s.sys.state ≠ .ready → s.dma.busy = false ∧ s.gen.inq = [] ∧ s.gen.phase = .hdr
  /-- The timer runs only after `INIT`, a tick is pending only while it runs (rules R141, R142, R235). -/
  armed : s.sch.state = .armed → s.sys.state = .ready
  tick : s.sch.irqPending = true → s.sch.state = .armed
  /-- A cause is recorded exactly in `FAILED` (rules R21, R231). -/
  cause : s.sys.state = .failed ↔ s.sys.cause ≠ .none
  /-- The engine's addresses are word-aligned (rule R64). -/
  aligned : s.dma.busy = true → s.dma.raddr.toNat % 4 = 0
  alignedNext : s.dma.pending = true → s.dma.pendAddr.toNat % 4 = 0
  /-- In the timed reading every symbol of `OUT` has its start time (rule R36). -/
  starts : s.cfg.timed = true → s.env.outAt.length = s.out.length
  /-- Inside a word the bit being sent has not been over for any time yet (rule R185: no gap). -/
  gapFree : s.cfg.timed = true → midWord s = true → s.env.now ≤ s.env.genUntil

/-- The transfers are of the live slot (rules R161, R168, R272): a running one stands in it at the words it still has to
move, a queued one names it. -/
structure ReadsLiveSlot (s : State) : Prop where
  running : s.dma.busy = true → s.dma.raddr = wordAddr s.ctx.addr (s.cfg.n + 1 - s.dma.remaining.toNat)
  queued : s.dma.pending = true → s.dma.pendAddr = s.ctx.addr

/-- A byte of the buffer of `n + 1` words at `base`. -/
def InBuffer (n : Nat) (base a : Addr) : Prop := base.toNat ≤ a.toNat ∧ a.toNat < base.toNat + 4 * (n + 1)

/-- How many words of the current frame the generator has taken (rules R181 to R184): none in `HDR`, all in `RST`,
else what the bits left say. -/
def wordsTaken (s : State) : Nat :=
  match s.gen.phase with
  | .hdr => 0
  | .pix => s.cfg.n + 1 - s.gen.bitsLeft.toNat / 24
  | .bit => s.cfg.n + 1 - (s.gen.bitsLeft.toNat - s.gen.osrCnt.toNat) / 24
  | .rst => s.cfg.n + 1

/-- How many words of the running transfer the engine has delivered (rules R164, R165). -/
def wordsDelivered (s : State) : Nat := if s.dma.busy = true then s.cfg.n + 1 - s.dma.remaining.toNat else 0

/-- An address of word 0 of a buffer of the configuration (rule R60). -/
def IsBuffer (c : Config) (a : Addr) : Prop := a = c.bufAddr ∨ (c.buffers = .double ∧ a = c.bufAddr2)

/-- An `XFER` of the word at `a` delivers `hdr(N)`, or finds that the word has no value and stops (rule R73). -/
def HeaderOrNothing (s : State) (a : Addr) : Prop := memRead s a = some (header s.cfg.n) ∨ memRead s a = none

/-- The next tick finds a header: at the live slot, or, where a swap waits between transfers, at the slot it makes live
(rules R150, R263). -/
def HeaderAwaits (s : State) : Prop :=
  HeaderOrNothing s s.ctx.addr ∨ (s.ctx.swapReq = true ∧ s.dma.busy = false ∧ s.dma.pending = false)

/-- The generator is in step with the engine (rule R188): the words it has taken and the words that wait for it are
the words delivered, frame by frame; every word that will be taken as a header is `hdr(N)`; so are the headers yet to be
delivered from memory, where they have a value. -/
structure InStep (s : State) : Prop where
  /-- Between colour words a whole number of words is left. -/
  wholeWords : s.gen.phase = .pix → ∃ left, 1 ≤ left ∧ left ≤ s.cfg.n ∧ s.gen.bitsLeft.toNat = 24 * left
  /-- Inside a colour word the bits left are its own and a whole number of words. -/
  partWord : s.gen.phase = .bit → ∃ left, left < s.cfg.n ∧ s.gen.bitsLeft.toNat = 24 * left + s.gen.osrCnt.toNat
  /-- Words taken and words waiting are words delivered, modulo the frame length. -/
  count : (wordsTaken s + s.gen.inq.length) % (s.cfg.n + 1) = wordsDelivered s % (s.cfg.n + 1)
  /-- A waiting word that stands where a header is taken is the header. -/
  headers : ∀ j w, s.gen.inq[j]? = some w → (wordsTaken s + j) % (s.cfg.n + 1) = 0 → w = header s.cfg.n
  /-- A transfer that has yet to deliver its header will find it. -/
  running : s.dma.busy = true → wordsDelivered s = 0 →
    IsBuffer s.cfg s.dma.raddr ∧ HeaderOrNothing s s.dma.raddr
  /-- So will a queued transfer, -/
  queued : s.dma.pending = true → IsBuffer s.cfg s.dma.pendAddr ∧ HeaderOrNothing s s.dma.pendAddr
  /-- the next tick's, -/
  ticking : s.sch.state = .armed → HeaderAwaits s
  /-- and one of the slot that waits to go live. -/
  swapping : s.ctx.swapReq = true → memRead s (slotAddr s.cfg (otherSlot s.ctx.cur)) = some (header s.cfg.n)
  /-- A build past its first store has stored the header. -/
  building : s.bld.active = true → 1 ≤ s.bld.idx.toNat → memRead s s.bld.base = some (header s.cfg.n)

/-! ## Conditions of the timed reading (rules R86, R265, R268, R270) -/

/-- The two bit symbols can be told apart (rule R86, decision D13). A condition for claims about the waveform; no step
asks it (log 25). -/
def bitsDiffer (c : Config) : Bool := decide (c.t0h ≠ c.t1h)

/-- The time on the wire of a frame with `zeros` zero bits, without stalls (rule R270). -/
def frameTime (c : Config) (zeros : Nat) : Nat :=
  zeros * (c.t0h + c.t0l) + (24 * c.n - zeros) * (c.t1h + c.t1l) + c.tReset

/-- Period headroom for a frame with `zeros` zero bits (rule R265). -/
def headroom (c : Config) (zeros : Nat) : Bool := decide (frameTime c zeros + c.xferLat * (c.n + 1) < c.tickPeriod)

/-- The engine's latency leaves no gap between colour words (rule R268). -/
def gapFree (c : Config) : Bool := decide (c.xferLat < 24 * min (c.t0h + c.t0l) (c.t1h + c.t1l))

end Sys2Proof.Machine
end

