-- ==== Sys2Proof/Certificates/Slice0/Obligations.lean ====
section
/-! DEFINITION. Sys2Proof/Certificates/Slice0/Obligations.lean: the statements for the provers.

A conclusion `exec i s = .next { s with ... }` is a completion, a result and a frame at once: every register, every
flag and every byte of memory that the record update does not name is unchanged. -/

section

open Sys2Proof
open Sys2Proof.Machine

/-! ## The step, a start, and the encodings -/

/-- O1. When the oldest entry of the schedule decodes to `i` at the generator's position, one step is `exec i`, after
the entry is taken and, in the timed reading, its time has passed. With no schedule given, the step takes one draw and
runs whatever the environment's free choice decodes to, or refuses it by name. Inside a word time goes no further than
the end of the bit being sent (rule R185). The schedule and its times are the model's own (log 2, log 9); the statement
holds for every value of the free choice. -/
def Obligations.StepRunsDecodedOperation : Prop :=
  (∀ (s : State) (e : Entry) (rest : List Entry) (i : Instr),
    configOk s.cfg = true → s.env.sched = e :: rest → decodeItem (wordPosition s.gen.phase) e.item = .ok i →
    step s =
      exec i
        { s with
          env :=
            { s.env with
              sched := rest
              now :=
                if s.cfg.timed then
                  if s.gen.phase = .bit ∧ s.gen.osrCnt ≠ 24 then
                    max s.env.now (min (s.env.now + e.dt) s.env.genUntil)
                  else s.env.now + e.dt
                else s.env.now } }) ∧
  ∀ s : State, configOk s.cfg = true → s.env.sched = [] →
    step s =
      match decodeItem (wordPosition s.gen.phase) (Config.freeEntry s.env.draws).item with
      | .error e => .refused (.undecodable e)
      | .ok i =>
        exec i
          { s with
            env :=
              { s.env with
                draws := s.env.draws + 1
                now := timeAfter s (Config.freeEntry s.env.draws).dt } }

/-- O2. Rule R263, a start: after `RESET`, `INIT` and one whole `BUILD` in either order and then `ARM`, the first tick
starts a transfer of the frame built. `BUILD` before `INIT` with two buffers needs the reading of `INIT` in which the
swap that waits is kept; that reading is the model's choice (log 19), and its `INIT` is said in full. Untimed. -/
def Obligations.StartInEitherOrder : Prop :=
  (∀ s : State, s.bld.active = false → s.sys.state = .reset → s.cfg.initSwap = .keeps →
    exec (.init true true) s =
      .next
        { s with
          ctx :=
            { chan := s.cfg.chan, addr := s.cfg.bufAddr, cur := .zero,
              swapReq := s.ctx.swapReq && decide (s.ctx.cur = .zero) }
          dma := { s.dma with busy := false, remaining := 0, pending := false }
          gen := { s.gen with init := true, inq := [], phase := .hdr, osrCnt := 0, bitsLeft := 0 }
          sys := { s.sys with state := .ready }
          env := { s.env with ctxWritten := true } }) ∧
  ∀ (st : State) (h s v : Operand) (h' s' v' : Rat) (fuel : Nat) (start : List Line),
    configOk st.cfg = true → st.cfg.timed = false → operandValues st.cfg.arith h s v = some (h', s', v') →
    start = [.op (.init true true), .buildAll h s v] ∨
      start = [.buildAll h s v, .op (.init true true)] ∧ (st.cfg.buffers = .double → st.cfg.initSwap = .keeps) →
    ∃ t : State,
      runLines fuel ([.op .reset] ++ start ++ [.op .arm, .refresh]) st = .next t ∧
      t.sys.state = .ready ∧ t.sch.state = .armed ∧ t.dma.busy = true ∧ t.dma.remaining = frameWords st.cfg ∧
      t.dma.raddr = buildBase st.cfg .zero ∧ t.ctx.addr = buildBase st.cfg .zero ∧
      memRead t t.dma.raddr = some (header st.cfg.n) ∧
      ∀ k : Nat, k < st.cfg.n →
        memRead t (wordAddr t.dma.raddr (k + 1)) =
          some (conv st.cfg.arith (cursorAt st.cfg.arith (hueStep st.cfg.arith st.cfg.n) k h') s' v')

/-- O3. Rules R64, R67 and R60: no step is taken in a configuration whose buffer, or, with two buffers, whose second
buffer, is misaligned or runs past the top of the address space, nor with two that overlap. -/
def Obligations.StepRefusesBadBuffer : Prop :=
  ∀ s : State,
    (s.cfg.bufAddr.toNat % 4 ≠ 0 ∨ 2 ^ 32 < s.cfg.bufAddr.toNat + 4 * (s.cfg.n + 1) →
      step s = .refused .badConfig) ∧
    (s.cfg.buffers = .double →
      (s.cfg.bufAddr2.toNat % 4 ≠ 0 ∨ 2 ^ 32 < s.cfg.bufAddr2.toNat + 4 * (s.cfg.n + 1) ∨
        s.cfg.bufAddr.toNat < s.cfg.bufAddr2.toNat + 4 * (s.cfg.n + 1) ∧
          s.cfg.bufAddr2.toNat < s.cfg.bufAddr.toNat + 4 * (s.cfg.n + 1)) →
      step s = .refused .badConfig)

/-- O4. Every instruction, with every operand: its encoding decodes to it. The operand bytes after a tag are the
model's (log 4). -/
def Obligations.DecodeEncodeRoundTrip : Prop :=
  ∀ i : Instr, decodeItem (positionOfInstr i) (encode i) = .ok i

/-- O5. Rule R88's table of tags, each for an operation without operands or with the shortest ones, the agents of the
table, and: tags 0x11 to 0xFF name no operation. -/
def Obligations.TagsNameOperations : Prop :=
  decodeItem .header (.op [0x00]) = .ok .reset ∧ Instr.agent .reset = .environment ∧
  decodeItem .header (.op [0x01, 0, 1]) = .ok (.init true false) ∧ Instr.agent (.init true false) = .host ∧
  decodeItem .header (.op [0x02, 0, 120, 0, 0, 1, 0, 0, 1, 9]) = .ok (.conv (.fin 120) (.fin 1) (.fin (1 / 10))) ∧
  Instr.agent (.conv (.fin 120) (.fin 1) (.fin (1 / 10))) = .host ∧
  decodeItem .header (.op [0x03, 0, 0, 0, 0, 1, 0, 1, 1, 1]) = .ok (.build (.fin 0) (.fin 1) (.fin (-1 / 2))) ∧
  Instr.agent (.build (.fin 0) (.fin 1) (.fin (-1 / 2))) = .host ∧
  decodeItem .header (.op [0x04]) = .ok .bldHdr ∧ Instr.agent .bldHdr = .bld ∧
  decodeItem .header (.op [0x05]) = .ok .bldPix ∧ Instr.agent .bldPix = .bld ∧
  decodeItem .header (.op [0x06]) = .ok .arm ∧ Instr.agent .arm = .host ∧
  decodeItem .header (.op [0x07]) = .ok .tick ∧ Instr.agent .tick = .tmr ∧
  decodeItem .header (.op [0x08]) = .ok .irq ∧ Instr.agent .irq = .irq ∧
  decodeItem .header (.op [0x09, 0, 0, 0, 0, 0x20]) = .ok (.trigger 0 0x20000000) ∧
  Instr.agent (.trigger 0 0x20000000) = .dma ∧
  decodeItem .header (.op [0x0A]) = .ok .xfer ∧ Instr.agent .xfer = .dma ∧
  decodeItem .header (.op [0x0B]) = .ok .genHdr ∧ Instr.agent .genHdr = .gen ∧
  decodeItem .header (.op [0x0C]) = .ok .genPix ∧ Instr.agent .genPix = .gen ∧
  decodeItem .header (.op [0x0D]) = .ok .genBit ∧ Instr.agent .genBit = .gen ∧
  decodeItem .header (.op [0x0E]) = .ok .genRst ∧ Instr.agent .genRst = .gen ∧
  decodeItem .header (.op [0x0F, 11]) = .ok (.rdcsr 11) ∧ Instr.agent (.rdcsr 11) = .host ∧
  decodeItem .header (.op [0x10]) = .ok .swap ∧ Instr.agent .swap = .irq ∧
  ∀ (tag : Byte) (operands : List Byte) (pos : Position),
    0x11 ≤ tag.toNat → decodeItem pos (.op (tag :: operands)) = .error (.reservedTag tag)

/-- O6. Rules R81 to R83, R90: every 32-bit word is legal in either position, and the position alone says what it is;
encoding what was decoded gives the word back. The symbol numbers of rule R86, of which 0b11 is unused. -/
def Obligations.WordsDecodeByPosition : Prop :=
  (∀ w : Word,
    decodeItem .header (.word w) = .ok (.wHdr (w.extractLsb' 8 24) (w.extractLsb' 0 8)) ∧
    decodeItem .colour (.word w) =
      .ok (.wPix (w.extractLsb' 24 8) (w.extractLsb' 16 8) (w.extractLsb' 8 8) (w.extractLsb' 0 8)) ∧
    encode (.wHdr (w.extractLsb' 8 24) (w.extractLsb' 0 8)) = .word w ∧
    encode (.wPix (w.extractLsb' 24 8) (w.extractLsb' 16 8) (w.extractLsb' 8 8) (w.extractLsb' 0 8)) = .word w) ∧
  ∀ pos : Position,
    decodeItem pos (.line 0b00) = .ok .sym0 ∧ decodeItem pos (.line 0b01) = .ok .sym1 ∧
    decodeItem pos (.line 0b10) = .ok .symRst ∧ decodeItem pos (.line 0b11) = .error .reservedSymbol

/-! ## Frame memory -/

/-- O7. Rules R62, R65, R68: a stored word reads back whole, byte `j` of it stands at its address plus `j`, and every
other byte reads as before. -/
def Obligations.StoredWordReadsBack : Prop :=
  ∀ (s : State) (a : Addr) (w : Word),
    memRead (memWrite s a w) a = some w ∧
    (∀ j : Nat, j < 4 → readByte (memWrite s a w) (a + BitVec.ofNat 32 j) = some (w.extractLsb' (8 * j) 8)) ∧
    ∀ c : Addr, c ≠ a → c ≠ a + 1 → c ≠ a + 2 → c ≠ a + 3 → readByte (memWrite s a w) c = readByte s c

/-! ## Reset -/

/-- O8. Rules R260 and R261: what the operation `RESET` leaves, from any state: every value rule R261 gives; a register it
leaves unspecified, as far as it can be read, reads as a draw; frame memory holds nothing stored. -/
def Obligations.ResetLeaves : Prop :=
  ∀ s : State,
    ∃ t : State,
      exec .reset s = .next t ∧
      t.sys.state = .reset ∧ t.sys.cause = .none ∧
      t.ctx.cur = .zero ∧ t.ctx.swapReq = false ∧
      t.bld.active = false ∧ t.bld.idx = 0 ∧
      t.sch.state = .idle ∧ t.sch.irqPending = false ∧ t.sch.dropped = 0 ∧
      t.dma.busy = false ∧ t.dma.remaining = 0 ∧ t.dma.pending = false ∧
      t.gen.init = false ∧ t.gen.inq = [] ∧ t.gen.phase = .hdr ∧ t.gen.osrCnt = 0 ∧ t.gen.bitsLeft = 0 ∧
      lineLevel t = false ∧ t.out = [] ∧
      (∀ a : Addr, lookupByte t.mem a.toNat = none) ∧
      (∀ n : Nat, n ∈ [0, 1, 2, 3, 5, 8, 9, 10, 12] → csr t n = some 0) ∧ csr t 11 = csr s 11 ∧
      (∀ n : Nat, n ∈ [4, 6, 7] →
        exec (.rdcsr n) t =
          .next { t with env := { t.env with replies := [Config.freeWord t.env.draws], draws := t.env.draws + 1 } })

/-- O9. Rules R260 and R261 for the machine right after power-on, and the defaults that rule R8's table gives: `N`,
`TICK_PERIOD`, `BUSY_POLICY`, `IN_DEPTH`, `BUFFERS` (a parameter it leaves OPEN is the model's choice, log 1). -/
def Obligations.PowerOnState : Prop :=
  State.reset.sys = { state := .reset, cause := .none } ∧
  State.reset.ctx.cur = .zero ∧ State.reset.ctx.swapReq = false ∧
  State.reset.bld.active = false ∧ State.reset.bld.idx = 0 ∧
  State.reset.sch.state = .idle ∧ State.reset.sch.irqPending = false ∧ State.reset.sch.dropped = 0 ∧
  State.reset.dma.busy = false ∧ State.reset.dma.remaining = 0 ∧ State.reset.dma.pending = false ∧
  State.reset.gen.init = false ∧ State.reset.gen.inq = [] ∧ State.reset.gen.phase = .hdr ∧
  State.reset.gen.osrCnt = 0 ∧ State.reset.gen.bitsLeft = 0 ∧
  State.reset.out = [] ∧ State.reset.mem = [] ∧ State.reset.cfg.n = 64 ∧ State.reset.cfg.busyPolicy = .drop ∧
  State.reset.cfg.inDepth = 1 ∧ State.reset.cfg.buffers = .single ∧ State.reset.cfg.tickPeriod = 17000000

/-- O10. The invariants of O11, O52 and O54 hold after power-on. -/
def Obligations.PowerOnMeetsInvariants : Prop :=
  RegistersOk State.reset ∧ ReadsLiveSlot State.reset ∧ InStep State.reset

/-- O11. Every step keeps the registers within what rules R21 to R27 say of them, memory in its canonical form and the
engine's addresses aligned. -/
def Obligations.StepKeepsRegistersOk : Prop :=
  ∀ s t : State, RegistersOk s → step s = .next t → RegistersOk t

/-! ## INIT and RDCSR -/

/-- O12. Rule R210, `INIT`, in every `sys.state` (of the other reading of its third line, log 19, see O2). -/
def Obligations.InitClaimsOrFaults : Prop :=
  ∀ s : State, s.bld.active = false →
    (s.sys.state = .reset →
      (∀ genFree : Bool,
        exec (.init false genFree) s = .next { s with sys := { state := .failed, cause := .noChannel } }) ∧
      exec (.init true false) s = .next { s with sys := { state := .failed, cause := .noGenerator } } ∧
      (s.cfg.initSwap = .clears →
        exec (.init true true) s =
          .next
            { s with
              ctx := { chan := s.cfg.chan, addr := s.cfg.bufAddr, cur := .zero, swapReq := false }
              dma := { s.dma with busy := false, remaining := 0, pending := false }
              gen := { s.gen with init := true, inq := [], phase := .hdr, osrCnt := 0, bitsLeft := 0 }
              sys := { s.sys with state := .ready }
              env := { s.env with ctxWritten := true } })) ∧
    (∀ chanFree genFree : Bool, s.sys.state = .ready → exec (.init chanFree genFree) s = .refused .secondInit) ∧
    (∀ chanFree genFree : Bool, s.sys.state = .failed → exec (.init chanFree genFree) s = .next s)

/-- O13. Rule R213, `RDCSR n`, in every `sys.state`: the reply is `CSR[n]`, or a draw before the register has a value
(rules R45, R47); a number above 12 is refused. -/
def Obligations.RdcsrReplies : Prop :=
  ∀ s : State, s.bld.active = false →
    (∀ n : Nat, n ≤ 12 → (n = 4 → s.env.raddrWritten = true) → (n = 6 ∨ n = 7 → s.env.ctxWritten = true) →
      ∃ w : Word,
        csr s n = some w ∧ exec (.rdcsr n) s = .next { s with env := { s.env with replies := s.env.replies ++ [w] } }) ∧
    (∀ n : Nat, n = 4 ∧ s.env.raddrWritten = false ∨ (n = 6 ∨ n = 7) ∧ s.env.ctxWritten = false →
      exec (.rdcsr n) s =
        .next
          { s with
            env :=
              { s.env with
                replies := s.env.replies ++ [Config.freeWord s.env.draws]
                draws := s.env.draws + 1 } }) ∧
    ∀ n : Nat, 12 < n → exec (.rdcsr n) s = .refused (.noSuchCsr n)

/-- O14. Rules R41 to R43, field by field. -/
def Obligations.CsrSystemAndScheduler : Prop :=
  ∀ s : State,
    (∃ w : Word, csr s 0 = some w ∧
      (s.sys.state = .reset → w.extractLsb' 0 2 = 0) ∧ (s.sys.state = .ready → w.extractLsb' 0 2 = 1) ∧
      (s.sys.state = .failed → w.extractLsb' 0 2 = 2) ∧
      (s.sys.cause = .none → w.extractLsb' 2 2 = 0) ∧ (s.sys.cause = .noChannel → w.extractLsb' 2 2 = 1) ∧
      (s.sys.cause = .noGenerator → w.extractLsb' 2 2 = 2) ∧ (s.sys.cause = .genNotInit → w.extractLsb' 2 2 = 3) ∧
      w.extractLsb' 4 28 = 0) ∧
    (∃ w : Word, csr s 1 = some w ∧
      w.getLsbD 0 = decide (s.sch.state = .armed) ∧ w.getLsbD 1 = s.sch.irqPending ∧ w.extractLsb' 2 30 = 0) ∧
    csr s 2 = some s.sch.dropped ∧
    csr State.reset 0 = some 0 ∧ csr State.reset 1 = some 0 ∧ csr State.reset 2 = some 0

/-- O15. Rules R44 to R47, field by field; a channel identifier that 32 bits do not hold reads as a free value, the
model's choice (log 23). -/
def Obligations.CsrEngineAndContext : Prop :=
  ∀ s : State,
    (∃ w : Word, csr s 3 = some w ∧
      w.getLsbD 0 = s.dma.busy ∧ (s.cfg.busyPolicy = .queue → w.getLsbD 1 = s.dma.pending) ∧
      (s.cfg.busyPolicy = .drop → w.getLsbD 1 = false) ∧ w.extractLsb' 2 30 = 0) ∧
    csr s 4 = some s.dma.raddr ∧
    (∃ w : Word, csr s 5 = some w ∧ w.extractLsb' 0 20 = s.dma.remaining ∧ w.extractLsb' 20 12 = 0) ∧
    (∃ w : Word, csr s 6 = some w ∧
      (s.ctx.chan < 2 ^ 32 → w.toNat = s.ctx.chan) ∧ (2 ^ 32 ≤ s.ctx.chan → w = Config.wideChannel s.ctx.chan)) ∧
    csr s 7 = some s.ctx.addr ∧
    csr State.reset 3 = some 0 ∧ csr State.reset 5 = some 0

/-- O16. Rules R48 to R51, field by field; the length field for the depths the spec keeps this CSR for. -/
def Obligations.CsrGeneratorAndBuilder : Prop :=
  ∀ s : State,
    (∃ w : Word, csr s 8 = some w ∧
      (s.gen.phase = .hdr → w.extractLsb' 0 2 = 0) ∧ (s.gen.phase = .pix → w.extractLsb' 0 2 = 1) ∧
      (s.gen.phase = .bit → w.extractLsb' 0 2 = 2) ∧ (s.gen.phase = .rst → w.extractLsb' 0 2 = 3) ∧
      w.getLsbD 2 = s.gen.init ∧
      w.getLsbD 3 = (s.gen.init && decide (s.gen.inq.length < s.cfg.inDepth)) ∧
      w.extractLsb' 8 5 = s.gen.osrCnt ∧
      (s.gen.inq.length ≤ 255 → (w.extractLsb' 16 8).toNat = s.gen.inq.length) ∧
      w.extractLsb' 4 4 = 0 ∧ w.extractLsb' 13 3 = 0 ∧ w.extractLsb' 24 8 = 0) ∧
    (∃ w : Word, csr s 9 = some w ∧ w.extractLsb' 0 25 = s.gen.bitsLeft ∧ w.extractLsb' 25 7 = 0) ∧
    (∃ w : Word, csr s 10 = some w ∧
      w.getLsbD 0 = s.bld.active ∧ w.extractLsb' 1 20 = s.bld.idx ∧ w.extractLsb' 21 11 = 0) ∧
    (∃ w : Word, csr s 11 = some w ∧
      (s.cfg.n ≤ 699050 → (w.extractLsb' 0 20).toNat = s.cfg.n) ∧ w.extractLsb' 20 12 = 0) ∧
    (∃ w : Word, csr s 12 = some w ∧
      (s.cfg.buffers = .double →
        w.getLsbD 0 = decide (s.ctx.cur = .one) ∧ w.getLsbD 1 = s.ctx.swapReq ∧ w.extractLsb' 2 30 = 0) ∧
      (s.cfg.buffers = .single → w = 0)) ∧
    csr State.reset 8 = some 0 ∧ csr State.reset 9 = some 0 ∧ csr State.reset 10 = some 0 ∧ csr State.reset 12 = some 0

/-! ## The Color Converter -/

/-- O17. Rules R100, R110, R113: in every `sys.state`, `CONV` of finite operands replies `conv` of their values and
changes nothing else; it is not held up by anything but an active build. -/
def Obligations.ConvReplies : Prop :=
  ∀ (st : State) (h s v : Operand) (h' s' v' : Rat),
    st.bld.active = false → operandValue st.cfg.arith h = some h' → operandValue st.cfg.arith s = some s' →
    operandValue st.cfg.arith v = some v' →
    exec (.conv h s v) st =
      .next { st with env := { st.env with replies := st.env.replies ++ [conv st.cfg.arith h' s' v'] } }

/-- O18. Rule R112: a request with an infinity or a not-a-number is refused, by `CONV` and by `BUILD`. Every finite
numeral has a value in every arithmetic, and is not refused: in `EXACT` itself, in `F32` and `F64` its rounding where
that is finite; elsewhere the rule states no value, and it is a free finite one, the model's choice (log 31). -/
def Obligations.NonFiniteRefused : Prop :=
  (∀ (st : State) (h s v x : Operand),
    st.bld.active = false → x ∈ [h, s, v] → x ∈ [Operand.posInf, .negInf, .nan] →
    exec (.conv h s v) st = .refused .nonFinite ∧
    (st.sys.state ≠ .failed → exec (.build h s v) st = .refused .nonFinite)) ∧
  (∀ q : Rat, operandValue .exact (.fin q) = some q) ∧
  (∀ q : Rat, |arithRound .f32 q| < 2 ^ 128 → operandValue .f32 (.fin q) = some (arithRound .f32 q)) ∧
  (∀ q : Rat, |arithRound .f64 q| < 2 ^ 1024 → operandValue .f64 (.fin q) = some (arithRound .f64 q)) ∧
  ∀ (a : Arith) (q : Rat), ∃ x : Rat,
    operandValue a (.fin q) = some x ∧ (a = .f32 → |x| < 2 ^ 128) ∧ (a = .f64 → |x| < 2 ^ 1024)

/-- O19. Rules R103 and R111: with saturation zero the value alone counts, whatever the hue is, even out of its
domain: `pack(c, c, c)` with `c = floor(v * 255)`, in every arithmetic. -/
def Obligations.ConvGrey : Prop :=
  ∀ (a : Arith) (h v : Rat), 0 ≤ v → v ≤ 1 →
    conv a h 0 v =
      pack (BitVec.ofInt 8 (arithMul a v 255).floor) (BitVec.ofInt 8 (arithMul a v 255).floor)
        (BitVec.ofInt 8 (arithMul a v 255).floor)

/-- O20. Rule R104: exactly 360 is replaced by 0, and hue 360 is hue 0 in every arithmetic. -/
def Obligations.ConvFoldsFullCircle : Prop :=
  (∀ h : Rat, (h = 360 → foldHue h = 0) ∧ (h ≠ 360 → foldHue h = h)) ∧
  ∀ (a : Arith) (s v : Rat), 0 ≤ s → s ≤ 1 → 0 ≤ v → v ≤ 1 → conv a 360 s v = conv a 0 s v

/-- O21. Rules R100 and R104 to R108, the colour path, in every arithmetic: the sector and the fraction of `h/60`, the
three mixes, each operation rounded once in the order written, the selection by sector, the scaling; and in `EXACT` the
hue range of each sector. -/
def Obligations.ConvSectors : Prop :=
  ∀ (a : Arith) (h s v hs f p q t : Rat) (byte : Rat → Byte),
    0 ≤ h → h ≤ 360 → 0 < s → s ≤ 1 → 0 ≤ v → v ≤ 1 →
    hs = arithDiv a (if h = 360 then 0 else h) 60 → f = arithSub a hs (hs.floor : Rat) →
    p = arithMul a v (arithSub a 1 s) → q = arithMul a v (arithSub a 1 (arithMul a s f)) →
    t = arithMul a v (arithSub a 1 (arithMul a s (arithSub a 1 f))) →
    (∀ x, byte x = BitVec.ofInt 8 (arithMul a x 255).floor) →
    (hs.floor % 6 = 0 → conv a h s v = pack (byte v) (byte t) (byte p)) ∧
    (hs.floor % 6 = 1 → conv a h s v = pack (byte q) (byte v) (byte p)) ∧
    (hs.floor % 6 = 2 → conv a h s v = pack (byte p) (byte v) (byte t)) ∧
    (hs.floor % 6 = 3 → conv a h s v = pack (byte p) (byte q) (byte v)) ∧
    (hs.floor % 6 = 4 → conv a h s v = pack (byte t) (byte p) (byte v)) ∧
    (hs.floor % 6 = 5 → conv a h s v = pack (byte v) (byte p) (byte q)) ∧
    (a = .exact → ∀ k : Nat, k < 6 → 60 * (k : Rat) ≤ h → h < 60 * ((k : Rat) + 1) →
      hs.floor = k ∧ f = h / 60 - k ∧ p = v * (1 - s) ∧ q = v * (1 - s * f) ∧ t = v * (1 - s * (1 - f)) ∧
      ∀ x, byte x = BitVec.ofInt 8 (x * 255).floor)

/-- O22. Rule R111: outside the nominal domain the result is the free function `OOR` of the three operands, whatever it
is: nothing else is assumed of it. -/
def Obligations.ConvOutsideDomain : Prop :=
  ∀ (a : Arith) (h s v : Rat),
    v < 0 ∨ 1 < v ∨ s < 0 ∨ 1 < s ∨ s ≠ 0 ∧ (h < 0 ∨ 360 < h) → conv a h s v = Config.oor a h s v

/-- O23. Rule R114, an inference the spec marks as its own, in every arithmetic, for a saturation and a value that are
values of it: (d) no channel overflows its byte, the largest channel is `floor(v * 255)` and the smallest
`floor(p * 255)`, `p = v * (1 - s)`; (e) the low byte is 0. -/
def Obligations.ConvExtremeChannels : Prop :=
  ∀ (a : Arith) (h s v p : Rat), 0 ≤ s → s ≤ 1 → 0 ≤ v → v ≤ 1 → s = 0 ∨ 0 ≤ h ∧ h ≤ 360 →
    (arithRound a s = s → arithRound a v = v → p = arithMul a v (arithSub a 1 s) →
      ∃ g r b : Byte,
        conv a h s v = pack r g b ∧
        ((max g.toNat (max r.toNat b.toNat) : Nat) : Int) = (arithMul a v 255).floor ∧
        ((min g.toNat (min r.toNat b.toNat) : Nat) : Int) = (arithMul a p 255).floor) ∧
    (conv a h s v).extractLsb' 0 8 = 0

/-- O24. Rule R101: every operation of an arithmetic is the exact one, rounded once; `EXACT` does not round, `F32` and
`F64` round to nearest, ties to even (`24` and `53` significant bits, lowest bits `2^-149` and `2^-1074`). No run meets
the upper end of a format (log 10). -/
def Obligations.RoundsToNearest : Prop :=
  (∀ (a : Arith) (x y : Rat),
    arithAdd a x y = arithRound a (x + y) ∧ arithSub a x y = arithRound a (x - y) ∧
    arithMul a x y = arithRound a (x * y) ∧ arithDiv a x y = arithRound a (x / y)) ∧
  (∀ q : Rat, arithRound .exact q = q) ∧
  RoundsToNearestEven 24 (-149) (arithRound .f32) ∧ RoundsToNearestEven 53 (-1074) (arithRound .f64)

/-! ## The Frame Builder -/

/-- O25. Rule R120, `BUILD`, with one buffer and with two; while a build is active no `HOST` operation is enabled. -/
def Obligations.BuildStarts : Prop :=
  (∀ (st : State) (i : Instr), st.bld.active = true → i.agent = .host → exec i st = .next st) ∧
  ∀ (st : State) (h s v : Operand) (h' s' v' : Rat),
    st.bld.active = false → st.sys.state = .reset ∨ st.sys.state = .ready →
    operandValue st.cfg.arith h = some h' → operandValue st.cfg.arith s = some s' →
    operandValue st.cfg.arith v = some v' →
    (st.cfg.buffers = .single →
      exec (.build h s v) st =
        .next
          { st with
            bld :=
              { active := true, idx := 0, cursor := h', s := s', v := v',
                step := arithDiv st.cfg.arith 360 (st.cfg.n : Rat), base := st.cfg.bufAddr } }) ∧
    (st.cfg.buffers = .double →
      exec (.build h s v) st =
        .next
          { st with
            bld :=
              { active := true, idx := 0, cursor := h', s := s', v := v',
                step := arithDiv st.cfg.arith 360 (st.cfg.n : Rat),
                base := if st.ctx.cur = .zero then st.cfg.bufAddr2 else st.cfg.bufAddr }
            ctx := { st.ctx with swapReq := false } })

/-- O26. Rule R121, `BLD.HDR`: the header is stored at `bld.base`; every other byte and every other register stays. -/
def Obligations.BldHdrStores : Prop :=
  ∀ s : State, s.sys.state ≠ .failed → s.bld.active = true → s.bld.idx = 0 →
    ∃ t : State,
      exec .bldHdr s = .next t ∧
      memRead t s.bld.base = some (BitVec.ofNat 32 (s.cfg.n * 24 - 1) <<< 8) ∧
      (∀ a : Addr, a ≠ s.bld.base → a ≠ s.bld.base + 1 → a ≠ s.bld.base + 2 → a ≠ s.bld.base + 3 →
        readByte t a = readByte s a) ∧
      t = { s with mem := t.mem, bld := { s.bld with idx := 1 } }

/-- O27. Rules R122 and R123, `BLD.PIX`: one colour word is stored at `bld.base + 4*bld.idx`, the cursor advances and
wraps, the index steps; after pixel `N-1` the build is over, and with two buffers asks for the swap. -/
def Obligations.BldPixStores : Prop :=
  ∀ (s : State) (a : Addr) (sum : Rat),
    s.sys.state ≠ .failed → s.bld.active = true → 1 ≤ s.bld.idx.toNat → s.bld.idx.toNat ≤ s.cfg.n →
    s.cfg.n ≤ 699050 → a = s.bld.base + BitVec.ofNat 32 (4 * s.bld.idx.toNat) →
    sum = arithAdd s.cfg.arith s.bld.cursor s.bld.step →
    ∃ t : State,
      exec .bldPix s = .next t ∧
      memRead t a = some (conv s.cfg.arith s.bld.cursor s.bld.s s.bld.v) ∧
      (∀ c : Addr, c ≠ a → c ≠ a + 1 → c ≠ a + 2 → c ≠ a + 3 → readByte t c = readByte s c) ∧
      t.bld.idx.toNat = s.bld.idx.toNat + 1 ∧
      (360 ≤ sum → t.bld.cursor = arithSub s.cfg.arith sum 360) ∧ (sum < 360 → t.bld.cursor = sum) ∧
      (s.bld.idx.toNat < s.cfg.n → t.bld.active = true ∧ t.ctx = s.ctx) ∧
      (s.bld.idx.toNat = s.cfg.n →
        t.bld.active = false ∧ (s.cfg.buffers = .single → t.ctx = s.ctx) ∧
        (s.cfg.buffers = .double → t.ctx = { s.ctx with swapReq := true })) ∧
      t =
        { s with
          mem := t.mem
          bld := { s.bld with active := t.bld.active, idx := t.bld.idx, cursor := t.bld.cursor }
          ctx := t.ctx }

/-- O28. Rule R124: `BUILD` and its `N+1` steps, nothing between them, leave the whole frame in the buffer built in,
and nothing else changed. -/
def Obligations.WholeBuild : Prop :=
  ∀ (st : State) (h s v : Operand) (h' s' v' : Rat) (fuel : Nat),
    configOk st.cfg = true → st.bld.active = false → st.sys.state ≠ .failed →
    operandValues st.cfg.arith h s v = some (h', s', v') →
    ∃ t : State,
      runLine fuel (.buildAll h s v) st = .next t ∧
      memRead t (buildBase st.cfg st.ctx.cur) = some (header st.cfg.n) ∧
      (∀ k : Nat, k < st.cfg.n →
        memRead t (wordAddr (buildBase st.cfg st.ctx.cur) (k + 1)) =
          some (conv st.cfg.arith (cursorAt st.cfg.arith (hueStep st.cfg.arith st.cfg.n) k h') s' v')) ∧
      (∀ a : Addr, ¬ InBuffer st.cfg.n (buildBase st.cfg st.ctx.cur) a → readByte t a = readByte st a) ∧
      t.bld.active = false ∧ t.bld.idx.toNat = st.cfg.n + 1 ∧
      t.bld.cursor = cursorAt st.cfg.arith (hueStep st.cfg.arith st.cfg.n) st.cfg.n h' ∧
      (st.cfg.buffers = .single → t.ctx = st.ctx) ∧
      (st.cfg.buffers = .double → t.ctx = { st.ctx with swapReq := true }) ∧
      t = { st with mem := t.mem, bld := t.bld, ctx := t.ctx }

/-- O29. Rule R125: two rebuilds of one buffer with equal operands, from any two states of one configuration, leave
byte-identical buffers. -/
def Obligations.RebuildByteIdentical : Prop :=
  ∀ (st₁ st₂ t₁ t₂ : State) (h s v : Operand) (fuel : Nat),
    configOk st₁.cfg = true → st₂.cfg = st₁.cfg → st₂.ctx.cur = st₁.ctx.cur →
    st₁.bld.active = false → st₂.bld.active = false → st₁.sys.state ≠ .failed → st₂.sys.state ≠ .failed →
    runLine fuel (.buildAll h s v) st₁ = .next t₁ → runLine fuel (.buildAll h s v) st₂ = .next t₂ →
    ∀ a : Addr, InBuffer st₁.cfg.n (buildBase st₁.cfg st₁.ctx.cur) a → readByte t₂ a = readByte t₁ a

/-- O30. Rules R129 and R132 in `EXACT`, for a seed in `[0, 360)`: the cursor of pixel `k` is the seed advanced by
`k*360/N`, less 360 once it has reached 360; after the last pixel it is the seed again. Seed 360 ends at 0 from two pixels on; with
one pixel the one subtraction a step may do leaves it at 360, where the corner of rule R132, an inference the spec marks
as its own, says 0. -/
def Obligations.CursorWrapsOnce : Prop :=
  ∀ (n k : Nat) (h x : Rat), 1 ≤ n → k ≤ n → 0 ≤ h → h < 360 → x = h + (k : Rat) * (360 / (n : Rat)) →
    (x < 360 → cursorAt .exact (hueStep .exact n) k h = x) ∧
    (360 ≤ x → cursorAt .exact (hueStep .exact n) k h = x - 360) ∧
    cursorAt .exact (hueStep .exact n) n h = h ∧
    (2 ≤ n → cursorAt .exact (hueStep .exact n) n 360 = 0) ∧ (n = 1 → cursorAt .exact (hueStep .exact n) n 360 = 360)

/-- O31. Rule R128, `FB[0]` equals `hdr(N)` for the rest of the run: no operation but `RESET` changes the header of
either buffer once it is there, even in the middle of a rebuild. -/
def Obligations.HeaderKept : Prop :=
  ∀ (s t : State) (i : Instr) (b : Addr),
    RegistersOk s → IsBuffer s.cfg b → memRead s b = some (header s.cfg.n) → i ≠ .reset → exec i s = .next t →
    memRead t b = some (header t.cfg.n)

/-! ## The Refresh Scheduler -/

/-- O32. Rule R141, `ARM`: in every `sys.state`, with the deadline of the timed reading. -/
def Obligations.ArmArmsOrFaults : Prop :=
  ∀ s : State, s.bld.active = false →
    (s.sys.state = .reset → exec .arm s = .next { s with sys := { state := .failed, cause := .genNotInit } }) ∧
    (s.sys.state = .ready → s.sch.state = .armed → exec .arm s = .refused .secondArm) ∧
    (s.sys.state = .ready → s.sch.state = .idle → s.cfg.timed = false →
      exec .arm s = .next { s with sch := { s.sch with state := .armed } }) ∧
    (s.sys.state = .ready → s.sch.state = .idle → s.cfg.timed = true →
      exec .arm s =
        .next { s with sch := { s.sch with state := .armed, deadline := s.env.now + s.cfg.tickPeriod } }) ∧
    (s.sys.state = .failed → exec .arm s = .next s)

/-- O33. Rule R142, `TICK`: it raises the request when armed and nothing is pending (in the timed reading, when due),
and otherwise nothing happens. -/
def Obligations.TickRaisesRequest : Prop :=
  ∀ s : State, s.sys.state ≠ .failed →
    (s.sch.state = .armed → s.sch.irqPending = false → (s.cfg.timed = true → s.sch.deadline ≤ s.env.now) →
      exec .tick s = .next { s with sch := { s.sch with irqPending := true } }) ∧
    (s.sch.state = .idle ∨ s.sch.irqPending = true ∨ s.cfg.timed = true ∧ s.env.now < s.sch.deadline →
      exec .tick s = .next s)

/-- O34. Rule R143, `IRQ`, the whole handler: it clears the request, swaps first when a swap is due (rule R150), then
triggers on the live buffer: an idle engine starts, a busy one drops or queues (rules R161 to R163). -/
def Obligations.IrqHandlesTick : Prop :=
  ∀ (s : State) (ctx : Ctx) (sch : Sch),
    s.sys.state ≠ .failed → s.sch.irqPending = true →
    (s.cfg.buffers = .double ∧ s.ctx.swapReq = true ∧ s.dma.busy = false ∧ s.dma.pending = false →
      ctx =
        { s.ctx with
          cur := if s.ctx.cur = .zero then .one else .zero
          addr := if s.ctx.cur = .zero then s.cfg.bufAddr2 else s.cfg.bufAddr
          swapReq := false }) →
    (s.cfg.buffers = .single ∨ s.ctx.swapReq = false ∨ s.dma.busy = true ∨ s.dma.pending = true → ctx = s.ctx) →
    sch =
      { s.sch with
        irqPending := false
        deadline := if s.cfg.timed = true then s.sch.deadline + s.cfg.tickPeriod else s.sch.deadline } →
    (s.dma.busy = false →
      exec .irq s =
        .next
          { s with
            ctx := ctx
            sch := sch
            dma := { s.dma with raddr := ctx.addr, remaining := BitVec.ofNat 20 (s.cfg.n + 1), busy := true }
            env := { s.env with raddrWritten := true } }) ∧
    (s.dma.busy = true → s.cfg.busyPolicy = .drop →
      exec .irq s = .next { s with ctx := ctx, sch := { sch with dropped := s.sch.dropped + 1 } }) ∧
    (s.dma.busy = true → s.cfg.busyPolicy = .queue → s.dma.pending = false →
      exec .irq s =
        .next { s with ctx := ctx, sch := sch, dma := { s.dma with pending := true, pendAddr := ctx.addr } }) ∧
    (s.dma.busy = true → s.cfg.busyPolicy = .queue → s.dma.pending = true →
      exec .irq s = .next { s with ctx := ctx, sch := { sch with dropped := s.sch.dropped + 1 } })

/-- O35. `SWAP` as a step of its own, outside the handler, in `RESET` and `READY`: the model's choice (log 15), with the
effect rule R150 gives the handler's sub-step: with two buffers, between transfers, it makes the waiting slot live;
otherwise nothing, with one buffer never anything. -/
def Obligations.SwapMakesSlotLive : Prop :=
  ∀ s : State, s.sys.state ≠ .failed →
    (s.cfg.buffers = .double → s.ctx.swapReq = true → s.dma.busy = false → s.dma.pending = false →
      (s.ctx.cur = .zero →
        exec .swap s = .next { s with ctx := { s.ctx with cur := .one, addr := s.cfg.bufAddr2, swapReq := false } }) ∧
      (s.ctx.cur = .one →
        exec .swap s = .next { s with ctx := { s.ctx with cur := .zero, addr := s.cfg.bufAddr, swapReq := false } })) ∧
    (s.cfg.buffers = .single ∨ s.ctx.swapReq = false ∨ s.dma.busy = true ∨ s.dma.pending = true →
      exec .swap s = .next s)

/-- O36. Rule R140: there is no operation that disarms the timer; only `RESET` leaves `ARMED`, and only `ARM` enters. -/
def Obligations.TimerNeverDisarmed : Prop :=
  ∀ (s t : State) (i : Instr), exec i s = .next t → i ≠ .reset →
    (s.sch.state = .armed → t.sch.state = .armed) ∧ (s.sch.state = .idle → t.sch.state = .armed → i = .arm)

/-- O37. Rule R147: `sch.dropped` moves only by one, modulo 2^32, when a trigger finds the engine busy and is discarded:
under `DROP`, or under `QUEUE` with a request already waiting; every such trigger is counted. -/
def Obligations.DroppedCountsDiscardedTriggers : Prop :=
  ∀ (s t : State) (i : Instr), exec i s = .next t → i ≠ .reset →
    (t.sch.dropped ≠ s.sch.dropped →
      t.sch.dropped = s.sch.dropped + 1 ∧ (i = .irq ∨ ∃ chan addr, i = .trigger chan addr) ∧
      s.dma.busy = true ∧ (s.cfg.busyPolicy = .drop ∨ s.dma.pending = true)) ∧
    (i = .irq → s.sch.irqPending = true → s.sys.state ≠ .failed → s.dma.busy = true →
      s.cfg.busyPolicy = .drop ∨ s.dma.pending = true → t.sch.dropped = s.sch.dropped + 1) ∧
    (∀ addr : Addr, i = .trigger s.ctx.chan addr → s.sys.state = .ready → s.dma.busy = true →
      s.cfg.busyPolicy = .drop ∨ s.dma.pending = true → t.sch.dropped = s.sch.dropped + 1)

/-! ## The transfer engine -/

/-- O38. `TRIGGER` as a step of its own, on the block's channel, in `READY`, at any aligned address: the model's choice
(log 12, log 30), with the effect rules R161 to R163 give it: an idle engine starts, a busy one drops or queues; `N + 1`
fits its register. -/
def Obligations.TriggerStartsDropsOrQueues : Prop :=
  ∀ (s : State) (addr : Addr), s.sys.state = .ready → addr.toNat % 4 = 0 →
    (s.dma.busy = false →
      exec (.trigger s.ctx.chan addr) s =
        .next
          { s with
            dma := { s.dma with raddr := addr, remaining := BitVec.ofNat 20 (s.cfg.n + 1), busy := true }
            env := { s.env with raddrWritten := true } }) ∧
    (s.dma.busy = true → s.cfg.busyPolicy = .drop →
      exec (.trigger s.ctx.chan addr) s = .next { s with sch := { s.sch with dropped := s.sch.dropped + 1 } }) ∧
    (s.dma.busy = true → s.cfg.busyPolicy = .queue → s.dma.pending = false →
      exec (.trigger s.ctx.chan addr) s =
        .next { s with dma := { s.dma with pending := true, pendAddr := addr } }) ∧
    (s.dma.busy = true → s.cfg.busyPolicy = .queue → s.dma.pending = true →
      exec (.trigger s.ctx.chan addr) s = .next { s with sch := { s.sch with dropped := s.sch.dropped + 1 } }) ∧
    (s.cfg.n ≤ 699050 → (BitVec.ofNat 20 (s.cfg.n + 1)).toNat = s.cfg.n + 1)

/-- O39. Rule R167: a foreign channel is refused. Rule R64: so is a misaligned buffer. -/
def Obligations.TriggerRefusesForeignChannel : Prop :=
  ∀ (s : State) (chan : Nat) (addr : Addr), s.sys.state = .ready →
    (chan ≠ s.ctx.chan → exec (.trigger chan addr) s = .refused (.foreignChannel chan)) ∧
    (chan = s.ctx.chan → addr.toNat % 4 ≠ 0 → exec (.trigger chan addr) s = .refused (.misalignedBuffer addr))

/-- O40. Rules R164 and R165, `XFER`: one word goes from memory to the generator's queue; the last word ends the
transfer or starts the queued one; an idle engine, and one without a data request, waits. -/
def Obligations.XferMovesOneWord : Prop :=
  (∀ s : State,
    s.dma.busy = false ∨ s.gen.init = false ∨ s.cfg.inDepth ≤ s.gen.inq.length → exec .xfer s = .next s) ∧
  ∀ (s : State) (w : Word),
    s.sys.state ≠ .failed → s.dma.busy = true → s.gen.init = true → s.gen.inq.length < s.cfg.inDepth →
    memRead s s.dma.raddr = some w →
    (s.dma.remaining ≠ 1 →
      exec .xfer s =
        .next
          { s with
            dma := { s.dma with raddr := s.dma.raddr + 4, remaining := s.dma.remaining - 1 }
            gen := { s.gen with inq := s.gen.inq ++ [w] } }) ∧
    (s.dma.remaining = 1 → s.cfg.busyPolicy = .drop ∨ s.dma.pending = false →
      exec .xfer s =
        .next
          { s with
            dma := { s.dma with raddr := s.dma.raddr + 4, remaining := 0, busy := false }
            gen := { s.gen with inq := s.gen.inq ++ [w] } }) ∧
    (s.dma.remaining = 1 → s.cfg.busyPolicy = .queue → s.dma.pending = true →
      exec .xfer s =
        .next
          { s with
            dma :=
              { s.dma with
                raddr := s.dma.pendAddr, remaining := BitVec.ofNat 20 (s.cfg.n + 1), pending := false }
            gen := { s.gen with inq := s.gen.inq ++ [w] } })

/-- O41. Rule R73: where the configuration refuses unwritten words, an `XFER` of a word with a byte that nothing has
stored is the model's fault `UNWRITTEN_READ`; where it takes them as draws, the word is there. -/
def Obligations.UnwrittenWordStopsOrIsDrawn : Prop :=
  ∀ s : State,
    (s.cfg.unwritten = .stop →
      s.sys.state ≠ .failed → s.dma.busy = true → s.gen.init = true → s.gen.inq.length < s.cfg.inDepth →
      ∀ j : Nat, j < 4 → lookupByte s.mem (s.dma.raddr + BitVec.ofNat 32 j).toNat = none →
      exec .xfer s = .fault (.unwrittenRead s.dma.raddr)) ∧
    (s.cfg.unwritten = .draw → ∀ a : Addr, ∃ w : Word, memRead s a = some w)

/-- O42. Rules R144 and R233: an idle engine starts only by the handler, or by a `TRIGGER` step, which the spec issues
only inside the handler; in particular no `BUILD` starts a transfer. -/
def Obligations.OnlyTriggersStartTheEngine : Prop :=
  ∀ (s t : State) (i : Instr), exec i s = .next t → s.dma.busy = false → t.dma.busy = true →
    i = .irq ∨ ∃ chan addr, i = .trigger chan addr

/-! ## The signal generator, the frame words and the line symbols -/

/-- O43. Rule R181, `GEN.HDR`: `count + 1` bits are to be sent (25 bits, so nothing wraps), the low byte is ignored,
nothing is emitted; without a word, or in another phase, it waits. -/
def Obligations.HeaderTaken : Prop :=
  (∀ s : State, s.gen.phase ≠ .hdr ∨ s.gen.inq = [] → exec .genHdr s = .next s) ∧
  ∀ (s : State) (count : BitVec 24) (low : Byte) (rest : List Word),
    s.sys.state ≠ .failed → (s.cfg.timed = true → s.env.genUntil ≤ s.env.now) → s.gen.phase = .hdr →
    s.gen.inq = (count ++ low) :: rest →
    ∃ bits : BitVec 25,
      bits.toNat = count.toNat + 1 ∧
      exec .genHdr s = .next { s with gen := { s.gen with inq := rest, bitsLeft := bits, phase := .pix } }

/-- O44. Rule R182, `GEN.PIX`; without a word, or in another phase, it waits. -/
def Obligations.ColourTaken : Prop :=
  (∀ s : State, s.gen.phase ≠ .pix ∨ s.gen.inq = [] → exec .genPix s = .next s) ∧
  ∀ (s : State) (w : Word) (rest : List Word),
    s.sys.state ≠ .failed → (s.cfg.timed = true → s.env.genUntil ≤ s.env.now) → s.gen.phase = .pix →
    s.gen.inq = w :: rest →
    exec .genPix s = .next { s with gen := { s.gen with inq := rest, osr := w, osrCnt := 24, phase := .bit } }

/-- O45. Rule R183, `GEN.BIT`, in the untimed reading: bit 31 goes out, the register shifts, both counts step, the phase
turns. -/
def Obligations.BitSent : Prop :=
  (∀ s : State, s.gen.phase ≠ .bit → exec .genBit s = .next s) ∧
  ∀ (s : State) (sym : LineSymbol) (phase : Phase),
    s.sys.state ≠ .failed → s.cfg.timed = false → s.gen.phase = .bit →
    (s.gen.osr.getLsbD 31 = true → sym = .sym1) → (s.gen.osr.getLsbD 31 = false → sym = .sym0) →
    (s.gen.bitsLeft = 1 → phase = .rst) → (s.gen.bitsLeft ≠ 1 → s.gen.osrCnt = 1 → phase = .pix) →
    (s.gen.bitsLeft ≠ 1 → s.gen.osrCnt ≠ 1 → phase = .bit) →
    exec .genBit s =
      .next
        { s with
          out := s.out ++ [sym]
          gen :=
            { s.gen with
              osr := s.gen.osr <<< 1, osrCnt := s.gen.osrCnt - 1, bitsLeft := s.gen.bitsLeft - 1, phase := phase } }

/-- O46. Rules R183, R185 and R269, `GEN.BIT` in the timed reading: bit 31 goes out, the register shifts, both counts
step, the phase turns; the symbol starts now, the line goes high for its high time, and the generator is held for its
two durations; a bit that follows one of the same word starts where that one ends, without a gap. The form of the timed
reading is the model's (log 9, log 27, log 28). -/
def Obligations.BitTimed : Prop :=
  ∀ (s t : State) (sym : LineSymbol) (phase : Phase) (high low : Nat),
    s.sys.state ≠ .failed → s.cfg.timed = true → s.env.genUntil ≤ s.env.now → s.gen.phase = .bit →
    (s.gen.osr.getLsbD 31 = true → sym = .sym1 ∧ high = s.cfg.t1h ∧ low = s.cfg.t1l) →
    (s.gen.osr.getLsbD 31 = false → sym = .sym0 ∧ high = s.cfg.t0h ∧ low = s.cfg.t0l) →
    (s.gen.bitsLeft = 1 → phase = .rst) → (s.gen.bitsLeft ≠ 1 → s.gen.osrCnt = 1 → phase = .pix) →
    (s.gen.bitsLeft ≠ 1 → s.gen.osrCnt ≠ 1 → phase = .bit) →
    t =
      { s with
        out := s.out ++ [sym]
        gen :=
          { s.gen with
            osr := s.gen.osr <<< 1, osrCnt := s.gen.osrCnt - 1, bitsLeft := s.gen.bitsLeft - 1, phase := phase }
        env := { s.env with outAt := s.env.outAt ++ [s.env.now], genUntil := s.env.now + (high + low) } } →
    exec .genBit s = .next t ∧
    (∀ later : Nat, s.env.now ≤ later →
      lineLevel { t with env := { t.env with now := later } } = decide (later < s.env.now + high)) ∧
    (RegistersOk s → s.gen.osrCnt ≠ 24 → s.env.now = s.env.genUntil)

/-- O47. Rule R184, `GEN.RST`: the reset interval goes out and the generator waits for a header; in the timed reading the
step lasts `T_RESET`, its form there (log 9) and that its writes show at its start (log 28) being the model's; in another
phase nothing happens. -/
def Obligations.ResetIntervalSent : Prop :=
  (∀ s : State, s.gen.phase ≠ .rst → exec .genRst s = .next s) ∧
  ∀ s : State,
    s.sys.state ≠ .failed → (s.cfg.timed = true → s.env.genUntil ≤ s.env.now) → s.gen.phase = .rst →
    (s.cfg.timed = false →
      exec .genRst s = .next { s with out := s.out ++ [.symRst], gen := { s.gen with phase := .hdr } }) ∧
    (s.cfg.timed = true →
      exec .genRst s =
        .next
          { s with
            out := s.out ++ [.symRst]
            gen := { s.gen with phase := .hdr }
            env := { s.env with outAt := s.env.outAt ++ [s.env.now], genUntil := s.env.now + s.cfg.tReset } })

/-- O48. Rules R186 and R87: the twenty-four `GEN.BIT` steps of a colour word send its bits 31 down to 8, in that
order. -/
def Obligations.PayloadMostSignificantFirst : Prop :=
  ∀ (s : State) (w : Word),
    s.sys.state ≠ .failed → s.cfg.timed = false → s.gen.phase = .bit → s.gen.osr = w → s.gen.osrCnt = 24 →
    24 ≤ s.gen.bitsLeft.toNat →
    ∃ t : State,
      runInstrs (List.replicate 24 .genBit) s = .next t ∧
      t.out = s.out ++ (List.range 24).map (fun j => if w.getLsbD (31 - j) then LineSymbol.sym1 else LineSymbol.sym0) ∧
      t.gen.osrCnt = 0 ∧ t.gen.bitsLeft.toNat + 24 = s.gen.bitsLeft.toNat ∧
      (s.gen.bitsLeft.toNat = 24 → t.gen.phase = .rst) ∧ (24 < s.gen.bitsLeft.toNat → t.gen.phase = .pix) ∧
      t = { s with gen := t.gen, out := t.out }

/-- O49. Rules R82, R83, R89: a word that differs only in its low byte is serialized identically: where `GEN.HDR` takes
it as a header it leaves the same state, as a colour word it has the same payload (O48 says that the payload is what
goes out). -/
def Obligations.LowByteIgnored : Prop :=
  ∀ (s : State) (top : BitVec 24) (low₁ low₂ : Byte) (rest : List Word),
    s.sys.state ≠ .failed → (s.cfg.timed = true → s.env.genUntil ≤ s.env.now) →
    exec .genHdr { s with gen := { s.gen with phase := .hdr, inq := (top ++ low₁) :: rest } } =
      exec .genHdr { s with gen := { s.gen with phase := .hdr, inq := (top ++ low₂) :: rest } } ∧
    payload (top ++ low₁) = payload (top ++ low₂)

/-- O50. Rule R36: `OUT` grows only by the one symbol that a step of the generator in `BIT` or `RST` emits, in the timed
reading with its start time, and what is observed of it (rule R216) grows by just that; nothing but `RESET` takes
anything out of it. -/
def Obligations.OutAppendOnly : Prop :=
  ∀ (s t : State) (i : Instr), exec i s = .next t → i ≠ .reset →
    (t.out = s.out ∧ t.env.outAt = s.env.outAt ∧ (observe t).out = (observe s).out) ∨
    (∃ (sym : LineSymbol) (start : Nat),
      t.out = s.out ++ [sym] ∧ (s.cfg.timed = true → t.env.outAt = s.env.outAt ++ [start]) ∧
      (s.cfg.timed = false →
        t.env.outAt = s.env.outAt ∧ (observe t).out = (observe s).out ++ [(sym, none)]) ∧
      (s.cfg.timed = true → s.env.outAt.length = s.out.length →
        (observe t).out = (observe s).out ++ [(sym, some start)]) ∧
      (sym = .symRst → s.gen.phase = .rst ∧ (i = .genRst ∨ i = .symRst)) ∧
      (sym ≠ .symRst → s.gen.phase = .bit ∧ (i = .genBit ∨ i = .sym0 ∨ i = .sym1)))

/-! ## The whole block -/

/-- O51. The table of rule R29: which operations write which registers. A word or symbol instruction counts as the
generator operation it is a step of (log 14), `TRIGGER` and `SWAP` as steps of their own. -/
def Obligations.RegisterWriters : Prop :=
  ∀ (s t : State) (i : Instr), exec i s = .next t → i ≠ .reset →
    t.cfg = s.cfg ∧
    (t.sys ≠ s.sys → (∃ c g, i = .init c g) ∨ i = .arm) ∧
    (t.ctx.chan ≠ s.ctx.chan → ∃ c g, i = .init c g) ∧
    (t.ctx.addr ≠ s.ctx.addr ∨ t.ctx.cur ≠ s.ctx.cur → (∃ c g, i = .init c g) ∨ i = .irq ∨ i = .swap) ∧
    (t.ctx.swapReq ≠ s.ctx.swapReq →
      (∃ c g, i = .init c g) ∨ (∃ h x v, i = .build h x v) ∨ i = .bldPix ∨ i = .irq ∨ i = .swap) ∧
    (t.bld ≠ s.bld → (∃ h x v, i = .build h x v) ∨ i = .bldHdr ∨ i = .bldPix) ∧
    (t.sch.state ≠ s.sch.state → i = .arm) ∧
    (t.sch.irqPending ≠ s.sch.irqPending → i = .tick ∨ i = .irq) ∧
    (t.sch.dropped ≠ s.sch.dropped → i = .irq ∨ ∃ c a, i = .trigger c a) ∧
    (t.sch.deadline ≠ s.sch.deadline → i = .arm ∨ i = .irq) ∧
    (t.dma ≠ s.dma → (∃ c g, i = .init c g) ∨ i = .irq ∨ (∃ c a, i = .trigger c a) ∨ i = .xfer) ∧
    (t.gen.init ≠ s.gen.init → ∃ c g, i = .init c g) ∧
    (t.gen.inq ≠ s.gen.inq →
      (∃ c g, i = .init c g) ∨ i = .xfer ∨ i = .genHdr ∨ i = .genPix ∨ (∃ c l, i = .wHdr c l) ∨
        ∃ g r b u, i = .wPix g r b u) ∧
    (t.gen.phase ≠ s.gen.phase ∨ t.gen.osr ≠ s.gen.osr ∨ t.gen.osrCnt ≠ s.gen.osrCnt ∨
        t.gen.bitsLeft ≠ s.gen.bitsLeft →
      (∃ c g, i = .init c g) ∨ i.agent = .gen) ∧
    (t.mem ≠ s.mem → i = .bldHdr ∨ i = .bldPix) ∧
    (t.out ≠ s.out → i.agent = .gen) ∧
    (t.env.replies ≠ s.env.replies → (∃ h x v, i = .conv h x v) ∨ ∃ n, i = .rdcsr n)

/-- O52. Rules R168 and R161: every operation keeps the running transfer on the buffer the Refresh Context names, at the
words it has yet to move, and a queued one too, but for a `TRIGGER` step of its own that names another buffer. -/
def Obligations.TransfersStayOnLiveSlot : Prop :=
  ∀ (s t : State) (i : Instr),
    RegistersOk s → ReadsLiveSlot s → exec i s = .next t → (∀ chan addr, i = .trigger chan addr → addr = s.ctx.addr) →
    ReadsLiveSlot t

/-- O53. Rule R272, with two buffers no transfer is torn: no operation but `RESET` changes any word of the live slot,
and the live slot does not change while the engine is busy or a request is pending; and where the transfers are of the
live slot (O52 says that they stay so), no word that the running one has yet to read, or the queued one will read,
changes. Rule R272 is an inference the spec marks as its own. -/
def Obligations.NoTearWithTwoBuffers : Prop :=
  ∀ (s t : State) (i : Instr),
    RegistersOk s → s.cfg.buffers = .double → s.sys.state = .ready → i ≠ .reset → exec i s = .next t →
    (∀ k : Nat, k ≤ s.cfg.n → memRead t (wordAddr s.ctx.addr k) = memRead s (wordAddr s.ctx.addr k)) ∧
    (s.dma.busy = true ∨ s.dma.pending = true → t.ctx.addr = s.ctx.addr ∧ t.ctx.cur = s.ctx.cur) ∧
    (ReadsLiveSlot s →
      (∀ k : Nat, s.dma.busy = true → k < s.dma.remaining.toNat →
        memRead t (wordAddr s.dma.raddr k) = memRead s (wordAddr s.dma.raddr k)) ∧
      (∀ k : Nat, s.dma.pending = true → k ≤ s.cfg.n →
        memRead t (wordAddr s.dma.pendAddr k) = memRead s (wordAddr s.dma.pendAddr k)))

/-- O54. Rule R188, the generator stays in step with the engine: every operation keeps the words taken and waiting equal
to the words delivered, frame by frame, and `hdr(N)` where a header is taken; provided `TRIGGER` is left to the handler
(rule R144) and the timer is armed where the first tick finds a header (rule R263): in the live slot, or in the slot that
a waiting swap makes live. A word without a value is no header taken, since the `XFER` of it stops; where such words are
draws, a rebuild that takes the waiting swap back needs the header in the live slot. Marked by the spec as its own
inference. -/
def Obligations.GeneratorStaysInStep : Prop :=
  ∀ (s t : State) (i : Instr),
    RegistersOk s → InStep s → exec i s = .next t → (∀ chan addr, i ≠ .trigger chan addr) →
    (i = .arm → HeaderAwaits s) →
    ((∃ h x v, i = .build h x v) → s.sch.state = .armed → HeaderOrNothing s s.ctx.addr) →
    InStep t

/-- O55. Rule R231: `FAILED` is terminal, and raising a fault does nothing but record the cause and enter it. -/
def Obligations.FailedIsTerminal : Prop :=
  ∀ (s t : State) (i : Instr), exec i s = .next t →
    (s.sys.state = .failed → i ≠ .reset →
      t = { s with env := { s.env with replies := t.env.replies, draws := t.env.draws } } ∧
      (t = s ∨ (∃ h x v, i = .conv h x v) ∨ ∃ n, i = .rdcsr n)) ∧
    (s.sys.state ≠ .failed → t.sys.state = .failed →
      t = { s with sys := { state := .failed, cause := t.sys.cause } } ∧ t.sys.cause ≠ .none)

/-- O56. Rule R232's table: which operation raises which fault, when, and the code that is recorded; no other operation
raises a fault. -/
def Obligations.FaultTable : Prop :=
  (causeCode .none = 0 ∧ causeCode .noChannel = 1 ∧ causeCode .noGenerator = 2 ∧ causeCode .genNotInit = 3) ∧
  ∀ (s t : State) (i : Instr), exec i s = .next t → s.sys.state ≠ .failed →
    (t.sys.state = .failed ∧ t.sys.cause = .noChannel ↔
      s.bld.active = false ∧ s.sys.state = .reset ∧ ∃ g, i = .init false g) ∧
    (t.sys.state = .failed ∧ t.sys.cause = .noGenerator ↔
      s.bld.active = false ∧ s.sys.state = .reset ∧ i = .init true false) ∧
    (t.sys.state = .failed ∧ t.sys.cause = .genNotInit ↔
      s.bld.active = false ∧ s.sys.state = .reset ∧ i = .arm) ∧
    ¬ (t.sys.state = .failed ∧ t.sys.cause = .none)

/-- O57. Rule R11, stuck, "nothing happens": an operation that is not enabled leaves the state as it is (log 13); the
one that is refused instead is a second `INIT`. -/
def Obligations.DisabledDoesNothing : Prop :=
  ∀ (s : State) (i : Instr),
    enabled s i = false → (∀ c g, i = .init c g → s.sys.state ≠ .ready) → exec i s = .next s

/-- O58. Rule R271, the block never hangs: armed, a tick or its handler is enabled; with the engine busy, `XFER` or the
generator's step is; an active build's next step is enabled. Untimed. An inference the spec marks as its own. -/
def Obligations.NoHang : Prop :=
  ∀ s : State, RegistersOk s → s.cfg.timed = false → s.sys.state ≠ .failed →
    (s.sch.state = .armed → enabled s .tick = true ∨ enabled s .irq = true) ∧
    (s.dma.busy = true → enabled s .xfer = true ∨ enabled s (genStepInstr s) = true) ∧
    (s.gen.inq ≠ [] → enabled s (genStepInstr s) = true) ∧
    (s.bld.active = true → enabled s (bldStepInstr s) = true)

/-- O59. Rules R193, R217, R87: from a frame boundary, `FRAME` (one refresh, then transfer and generator until neither
can go on) sends exactly the serial image of the frame in the live buffer and ends at a frame boundary; `26*N + 3`
steps of engine and generator are enough. Untimed; no swap waiting. An inference the spec marks as its own. -/
def Obligations.FrameSendsSerialImage : Prop :=
  ∀ (s : State) (colours : List Word) (fuel : Nat),
    RegistersOk s → FrameBoundary s → s.cfg.timed = false → s.sch.state = .armed → s.sch.irqPending = false →
    s.ctx.swapReq = false → colours.length = s.cfg.n → memRead s s.ctx.addr = some (header s.cfg.n) →
    (∀ (k : Nat) (w : Word), colours[k]? = some w → memRead s (wordAddr s.ctx.addr (k + 1)) = some w) →
    26 * s.cfg.n + 3 ≤ fuel →
    ∃ t : State,
      runLine fuel .frame s = .next t ∧ t.out = s.out ++ serialImage colours ∧ FrameBoundary t ∧ t.mem = s.mem ∧
      t.sch = s.sch ∧ t.ctx = s.ctx ∧ t.bld = s.bld ∧ t.sys = s.sys

/-- O60. The frame words `W-HDR`, `W-PIX` and the line symbols `SYM0`, `SYM1`, `SYMRST` as steps of their own: what each
does where the generator takes that word or emits that symbol, and that it is the generator's own step. The model's
reading (log 14) of rules R81 to R83 and R86. -/
def Obligations.WordsAndSymbolsAreGeneratorSteps : Prop :=
  ∀ s : State, s.sys.state ≠ .failed → (s.cfg.timed = true → s.env.genUntil ≤ s.env.now) →
    (∀ (count : BitVec 24) (low : Byte) (rest : List Word), s.gen.phase = .hdr → s.gen.inq = (count ++ low) :: rest →
      exec (.wHdr count low) s =
        .next { s with gen := { s.gen with inq := rest, bitsLeft := count.setWidth 25 + 1, phase := .pix } } ∧
      exec (.wHdr count low) s = exec .genHdr s) ∧
    (∀ (g r b unused : Byte) (rest : List Word), s.gen.phase = .pix → s.gen.inq = (g ++ r ++ b ++ unused) :: rest →
      exec (.wPix g r b unused) s =
        .next
          { s with gen := { s.gen with inq := rest, osr := g ++ r ++ b ++ unused, osrCnt := 24, phase := .bit } } ∧
      exec (.wPix g r b unused) s = exec .genPix s) ∧
    (s.gen.phase = .bit → s.gen.osr.getLsbD 31 = false →
      ∃ t : State, exec .sym0 s = .next t ∧ exec .genBit s = .next t ∧ t.out = s.out ++ [.sym0] ∧
        t.gen.bitsLeft = s.gen.bitsLeft - 1 ∧ t = { s with gen := t.gen, out := t.out, env := t.env }) ∧
    (s.gen.phase = .bit → s.gen.osr.getLsbD 31 = true →
      ∃ t : State, exec .sym1 s = .next t ∧ exec .genBit s = .next t ∧ t.out = s.out ++ [.sym1] ∧
        t.gen.bitsLeft = s.gen.bitsLeft - 1 ∧ t = { s with gen := t.gen, out := t.out, env := t.env }) ∧
    (s.gen.phase = .rst →
      ∃ t : State, exec .symRst s = .next t ∧ exec .genRst s = .next t ∧ t.out = s.out ++ [.symRst] ∧
        t.gen = { s.gen with phase := .hdr } ∧ t = { s with gen := t.gen, out := t.out, env := t.env })

end
end

