-- ==== Sys2Proof/Laws/State.lean ====
section
/-! SUPPORT. Sys2Proof/Laws/State.lean: for every named update of the state, what it leaves in each field. -/

namespace Sys2Proof.Machine

variable (s : State)

/-! ### memWrite -/

@[simp] theorem memWrite_cfg (a : Addr) (w : Word) : (memWrite s a w).cfg = s.cfg := rfl
@[simp] theorem memWrite_sys (a : Addr) (w : Word) : (memWrite s a w).sys = s.sys := rfl
@[simp] theorem memWrite_ctx (a : Addr) (w : Word) : (memWrite s a w).ctx = s.ctx := rfl
@[simp] theorem memWrite_mem (a : Addr) (w : Word) : (memWrite s a w).mem = storeWord s.mem a w := rfl
@[simp] theorem memWrite_bld (a : Addr) (w : Word) : (memWrite s a w).bld = s.bld := rfl
@[simp] theorem memWrite_sch (a : Addr) (w : Word) : (memWrite s a w).sch = s.sch := rfl
@[simp] theorem memWrite_dma (a : Addr) (w : Word) : (memWrite s a w).dma = s.dma := rfl
@[simp] theorem memWrite_gen (a : Addr) (w : Word) : (memWrite s a w).gen = s.gen := rfl
@[simp] theorem memWrite_out (a : Addr) (w : Word) : (memWrite s a w).out = s.out := rfl
@[simp] theorem memWrite_env (a : Addr) (w : Word) : (memWrite s a w).env = s.env := rfl

/-! ### raiseFault -/

@[simp] theorem raiseFault_cfg (c : Cause) : (raiseFault s c).cfg = s.cfg := rfl
@[simp] theorem raiseFault_sys (c : Cause) : (raiseFault s c).sys = { state := .failed, cause := c } := rfl
@[simp] theorem raiseFault_ctx (c : Cause) : (raiseFault s c).ctx = s.ctx := rfl
@[simp] theorem raiseFault_mem (c : Cause) : (raiseFault s c).mem = s.mem := rfl
@[simp] theorem raiseFault_bld (c : Cause) : (raiseFault s c).bld = s.bld := rfl
@[simp] theorem raiseFault_sch (c : Cause) : (raiseFault s c).sch = s.sch := rfl
@[simp] theorem raiseFault_dma (c : Cause) : (raiseFault s c).dma = s.dma := rfl
@[simp] theorem raiseFault_gen (c : Cause) : (raiseFault s c).gen = s.gen := rfl
@[simp] theorem raiseFault_out (c : Cause) : (raiseFault s c).out = s.out := rfl
@[simp] theorem raiseFault_env (c : Cause) : (raiseFault s c).env = s.env := rfl

/-! ### replyWord -/

@[simp] theorem replyWord_cfg (w : Word) : (replyWord s w).cfg = s.cfg := rfl
@[simp] theorem replyWord_sys (w : Word) : (replyWord s w).sys = s.sys := rfl
@[simp] theorem replyWord_ctx (w : Word) : (replyWord s w).ctx = s.ctx := rfl
@[simp] theorem replyWord_mem (w : Word) : (replyWord s w).mem = s.mem := rfl
@[simp] theorem replyWord_bld (w : Word) : (replyWord s w).bld = s.bld := rfl
@[simp] theorem replyWord_sch (w : Word) : (replyWord s w).sch = s.sch := rfl
@[simp] theorem replyWord_dma (w : Word) : (replyWord s w).dma = s.dma := rfl
@[simp] theorem replyWord_gen (w : Word) : (replyWord s w).gen = s.gen := rfl
@[simp] theorem replyWord_out (w : Word) : (replyWord s w).out = s.out := rfl
@[simp] theorem replyWord_env (w : Word) : (replyWord s w).env = { s.env with replies := s.env.replies ++ [w] } := rfl

/-! ### replyDraw -/

@[simp] theorem replyDraw_cfg : (replyDraw s).cfg = s.cfg := rfl
@[simp] theorem replyDraw_sys : (replyDraw s).sys = s.sys := rfl
@[simp] theorem replyDraw_ctx : (replyDraw s).ctx = s.ctx := rfl
@[simp] theorem replyDraw_mem : (replyDraw s).mem = s.mem := rfl
@[simp] theorem replyDraw_bld : (replyDraw s).bld = s.bld := rfl
@[simp] theorem replyDraw_sch : (replyDraw s).sch = s.sch := rfl
@[simp] theorem replyDraw_dma : (replyDraw s).dma = s.dma := rfl
@[simp] theorem replyDraw_gen : (replyDraw s).gen = s.gen := rfl
@[simp] theorem replyDraw_out : (replyDraw s).out = s.out := rfl
@[simp] theorem replyDraw_env : (replyDraw s).env = { s.env with replies := s.env.replies ++ [Config.freeWord s.env.draws], draws := s.env.draws + 1 } := rfl

/-! ### emitSymbol -/

@[simp] theorem emitSymbol_cfg (sym : LineSymbol) (start : Nat) : (emitSymbol s sym start).cfg = s.cfg := rfl
@[simp] theorem emitSymbol_sys (sym : LineSymbol) (start : Nat) : (emitSymbol s sym start).sys = s.sys := rfl
@[simp] theorem emitSymbol_ctx (sym : LineSymbol) (start : Nat) : (emitSymbol s sym start).ctx = s.ctx := rfl
@[simp] theorem emitSymbol_mem (sym : LineSymbol) (start : Nat) : (emitSymbol s sym start).mem = s.mem := rfl
@[simp] theorem emitSymbol_bld (sym : LineSymbol) (start : Nat) : (emitSymbol s sym start).bld = s.bld := rfl
@[simp] theorem emitSymbol_sch (sym : LineSymbol) (start : Nat) : (emitSymbol s sym start).sch = s.sch := rfl
@[simp] theorem emitSymbol_dma (sym : LineSymbol) (start : Nat) : (emitSymbol s sym start).dma = s.dma := rfl
@[simp] theorem emitSymbol_gen (sym : LineSymbol) (start : Nat) : (emitSymbol s sym start).gen = s.gen := rfl
@[simp] theorem emitSymbol_out (sym : LineSymbol) (start : Nat) : (emitSymbol s sym start).out = s.out ++ [sym] := rfl
@[simp] theorem emitSymbol_env (sym : LineSymbol) (start : Nat) : (emitSymbol s sym start).env = { s.env with outAt := if s.cfg.timed then s.env.outAt ++ [start] else s.env.outAt } := rfl

/-! ### dropTrigger -/

@[simp] theorem dropTrigger_cfg : (dropTrigger s).cfg = s.cfg := rfl
@[simp] theorem dropTrigger_sys : (dropTrigger s).sys = s.sys := rfl
@[simp] theorem dropTrigger_ctx : (dropTrigger s).ctx = s.ctx := rfl
@[simp] theorem dropTrigger_mem : (dropTrigger s).mem = s.mem := rfl
@[simp] theorem dropTrigger_bld : (dropTrigger s).bld = s.bld := rfl
@[simp] theorem dropTrigger_sch : (dropTrigger s).sch = { s.sch with dropped := s.sch.dropped + 1 } := rfl
@[simp] theorem dropTrigger_dma : (dropTrigger s).dma = s.dma := rfl
@[simp] theorem dropTrigger_gen : (dropTrigger s).gen = s.gen := rfl
@[simp] theorem dropTrigger_out : (dropTrigger s).out = s.out := rfl
@[simp] theorem dropTrigger_env : (dropTrigger s).env = s.env := rfl

/-! ### startTransfer -/

@[simp] theorem startTransfer_cfg (addr : Addr) : (startTransfer s addr).cfg = s.cfg := rfl
@[simp] theorem startTransfer_sys (addr : Addr) : (startTransfer s addr).sys = s.sys := rfl
@[simp] theorem startTransfer_ctx (addr : Addr) : (startTransfer s addr).ctx = s.ctx := rfl
@[simp] theorem startTransfer_mem (addr : Addr) : (startTransfer s addr).mem = s.mem := rfl
@[simp] theorem startTransfer_bld (addr : Addr) : (startTransfer s addr).bld = s.bld := rfl
@[simp] theorem startTransfer_sch (addr : Addr) : (startTransfer s addr).sch = s.sch := rfl
@[simp] theorem startTransfer_dma (addr : Addr) : (startTransfer s addr).dma = { s.dma with raddr := addr, remaining := frameWords s.cfg, busy := true } := rfl
@[simp] theorem startTransfer_gen (addr : Addr) : (startTransfer s addr).gen = s.gen := rfl
@[simp] theorem startTransfer_out (addr : Addr) : (startTransfer s addr).out = s.out := rfl
@[simp] theorem startTransfer_env (addr : Addr) : (startTransfer s addr).env = { s.env with raddrWritten := true } := rfl

/-! ### deliverWord -/

@[simp] theorem deliverWord_cfg (w : Word) : (deliverWord s w).cfg = s.cfg := rfl
@[simp] theorem deliverWord_sys (w : Word) : (deliverWord s w).sys = s.sys := rfl
@[simp] theorem deliverWord_ctx (w : Word) : (deliverWord s w).ctx = s.ctx := rfl
@[simp] theorem deliverWord_mem (w : Word) : (deliverWord s w).mem = s.mem := rfl
@[simp] theorem deliverWord_bld (w : Word) : (deliverWord s w).bld = s.bld := rfl
@[simp] theorem deliverWord_sch (w : Word) : (deliverWord s w).sch = s.sch := rfl
@[simp] theorem deliverWord_dma (w : Word) : (deliverWord s w).dma = { s.dma with raddr := s.dma.raddr + 4, remaining := s.dma.remaining - 1 } := rfl
@[simp] theorem deliverWord_gen (w : Word) : (deliverWord s w).gen = pushInq s.gen w := rfl
@[simp] theorem deliverWord_out (w : Word) : (deliverWord s w).out = s.out := rfl
@[simp] theorem deliverWord_env (w : Word) : (deliverWord s w).env = s.env := rfl

/-! ### holdGenerator -/

@[simp] theorem holdGenerator_cfg (start duration : Nat) : (holdGenerator s start duration).cfg = s.cfg := rfl
@[simp] theorem holdGenerator_sys (start duration : Nat) : (holdGenerator s start duration).sys = s.sys := rfl
@[simp] theorem holdGenerator_ctx (start duration : Nat) : (holdGenerator s start duration).ctx = s.ctx := rfl
@[simp] theorem holdGenerator_mem (start duration : Nat) : (holdGenerator s start duration).mem = s.mem := rfl
@[simp] theorem holdGenerator_bld (start duration : Nat) : (holdGenerator s start duration).bld = s.bld := rfl
@[simp] theorem holdGenerator_sch (start duration : Nat) : (holdGenerator s start duration).sch = s.sch := rfl
@[simp] theorem holdGenerator_dma (start duration : Nat) : (holdGenerator s start duration).dma = s.dma := rfl
@[simp] theorem holdGenerator_gen (start duration : Nat) : (holdGenerator s start duration).gen = s.gen := rfl
@[simp] theorem holdGenerator_out (start duration : Nat) : (holdGenerator s start duration).out = s.out := rfl
@[simp] theorem holdGenerator_env (start duration : Nat) : (holdGenerator s start duration).env = { s.env with genUntil := if s.cfg.timed then start + duration else s.env.genUntil } := rfl

/-! ### claimResources -/

@[simp] theorem claimResources_cfg : (claimResources s).cfg = s.cfg := rfl
@[simp] theorem claimResources_sys : (claimResources s).sys = { s.sys with state := .ready } := rfl
@[simp] theorem claimResources_ctx : (claimResources s).ctx = { chan := s.cfg.chan, addr := s.cfg.bufAddr, cur := .zero, swapReq := swapAtInit s.cfg.initSwap s.ctx } := rfl
@[simp] theorem claimResources_mem : (claimResources s).mem = s.mem := rfl
@[simp] theorem claimResources_bld : (claimResources s).bld = s.bld := rfl
@[simp] theorem claimResources_sch : (claimResources s).sch = s.sch := rfl
@[simp] theorem claimResources_dma : (claimResources s).dma = { s.dma with busy := false, remaining := 0, pending := false } := rfl
@[simp] theorem claimResources_gen : (claimResources s).gen = { s.gen with init := true, inq := [], phase := .hdr, osrCnt := 0, bitsLeft := 0 } := rfl
@[simp] theorem claimResources_out : (claimResources s).out = s.out := rfl
@[simp] theorem claimResources_env : (claimResources s).env = { s.env with ctxWritten := true } := rfl

/-! ### startBuild -/

@[simp] theorem startBuild_cfg (h sat v : Rat) : (startBuild s h sat v).cfg = s.cfg := rfl
@[simp] theorem startBuild_sys (h sat v : Rat) : (startBuild s h sat v).sys = s.sys := rfl
@[simp] theorem startBuild_ctx (h sat v : Rat) : (startBuild s h sat v).ctx = { s.ctx with swapReq := swapAtStart s.cfg.buffers s.ctx.swapReq } := rfl
@[simp] theorem startBuild_mem (h sat v : Rat) : (startBuild s h sat v).mem = s.mem := rfl
@[simp] theorem startBuild_bld (h sat v : Rat) : (startBuild s h sat v).bld = { active := true, idx := 0, cursor := h, s := sat, v := v, step := hueStep s.cfg.arith s.cfg.n, base := buildBase s.cfg s.ctx.cur } := rfl
@[simp] theorem startBuild_sch (h sat v : Rat) : (startBuild s h sat v).sch = s.sch := rfl
@[simp] theorem startBuild_dma (h sat v : Rat) : (startBuild s h sat v).dma = s.dma := rfl
@[simp] theorem startBuild_gen (h sat v : Rat) : (startBuild s h sat v).gen = s.gen := rfl
@[simp] theorem startBuild_out (h sat v : Rat) : (startBuild s h sat v).out = s.out := rfl
@[simp] theorem startBuild_env (h sat v : Rat) : (startBuild s h sat v).env = s.env := rfl

/-! ### storeHeader -/

@[simp] theorem storeHeader_cfg : (storeHeader s).cfg = s.cfg := rfl
@[simp] theorem storeHeader_sys : (storeHeader s).sys = s.sys := rfl
@[simp] theorem storeHeader_ctx : (storeHeader s).ctx = s.ctx := rfl
@[simp] theorem storeHeader_mem : (storeHeader s).mem = storeWord s.mem s.bld.base (header s.cfg.n) := rfl
@[simp] theorem storeHeader_bld : (storeHeader s).bld = { s.bld with idx := 1 } := rfl
@[simp] theorem storeHeader_sch : (storeHeader s).sch = s.sch := rfl
@[simp] theorem storeHeader_dma : (storeHeader s).dma = s.dma := rfl
@[simp] theorem storeHeader_gen : (storeHeader s).gen = s.gen := rfl
@[simp] theorem storeHeader_out : (storeHeader s).out = s.out := rfl
@[simp] theorem storeHeader_env : (storeHeader s).env = s.env := rfl

/-! ### storePixel -/

@[simp] theorem storePixel_cfg : (storePixel s).cfg = s.cfg := rfl
@[simp] theorem storePixel_sys : (storePixel s).sys = s.sys := rfl
@[simp] theorem storePixel_ctx : (storePixel s).ctx = s.ctx := rfl
@[simp] theorem storePixel_mem : (storePixel s).mem = storeWord s.mem (pixelAddr s) (conv s.cfg.arith s.bld.cursor s.bld.s s.bld.v) := rfl
@[simp] theorem storePixel_bld : (storePixel s).bld = { s.bld with cursor := advanceCursor s.cfg.arith s.bld.cursor s.bld.step, idx := s.bld.idx + 1 } := rfl
@[simp] theorem storePixel_sch : (storePixel s).sch = s.sch := rfl
@[simp] theorem storePixel_dma : (storePixel s).dma = s.dma := rfl
@[simp] theorem storePixel_gen : (storePixel s).gen = s.gen := rfl
@[simp] theorem storePixel_out : (storePixel s).out = s.out := rfl
@[simp] theorem storePixel_env : (storePixel s).env = s.env := rfl

/-! ### finishBuild -/

@[simp] theorem finishBuild_cfg : (finishBuild s).cfg = s.cfg := rfl
@[simp] theorem finishBuild_sys : (finishBuild s).sys = s.sys := rfl
@[simp] theorem finishBuild_ctx : (finishBuild s).ctx = { s.ctx with swapReq := swapAtEnd s.cfg.buffers s.ctx.swapReq } := rfl
@[simp] theorem finishBuild_mem : (finishBuild s).mem = s.mem := rfl
@[simp] theorem finishBuild_bld : (finishBuild s).bld = { s.bld with active := false } := rfl
@[simp] theorem finishBuild_sch : (finishBuild s).sch = s.sch := rfl
@[simp] theorem finishBuild_dma : (finishBuild s).dma = s.dma := rfl
@[simp] theorem finishBuild_gen : (finishBuild s).gen = s.gen := rfl
@[simp] theorem finishBuild_out : (finishBuild s).out = s.out := rfl
@[simp] theorem finishBuild_env : (finishBuild s).env = s.env := rfl

/-! ### armTimer -/

@[simp] theorem armTimer_cfg : (armTimer s).cfg = s.cfg := rfl
@[simp] theorem armTimer_sys : (armTimer s).sys = s.sys := rfl
@[simp] theorem armTimer_ctx : (armTimer s).ctx = s.ctx := rfl
@[simp] theorem armTimer_mem : (armTimer s).mem = s.mem := rfl
@[simp] theorem armTimer_bld : (armTimer s).bld = s.bld := rfl
@[simp] theorem armTimer_sch : (armTimer s).sch = { s.sch with state := .armed, deadline := if s.cfg.timed then s.env.now + s.cfg.tickPeriod else s.sch.deadline } := rfl
@[simp] theorem armTimer_dma : (armTimer s).dma = s.dma := rfl
@[simp] theorem armTimer_gen : (armTimer s).gen = s.gen := rfl
@[simp] theorem armTimer_out : (armTimer s).out = s.out := rfl
@[simp] theorem armTimer_env : (armTimer s).env = s.env := rfl

/-! ### raiseTick -/

@[simp] theorem raiseTick_cfg : (raiseTick s).cfg = s.cfg := rfl
@[simp] theorem raiseTick_sys : (raiseTick s).sys = s.sys := rfl
@[simp] theorem raiseTick_ctx : (raiseTick s).ctx = s.ctx := rfl
@[simp] theorem raiseTick_mem : (raiseTick s).mem = s.mem := rfl
@[simp] theorem raiseTick_bld : (raiseTick s).bld = s.bld := rfl
@[simp] theorem raiseTick_sch : (raiseTick s).sch = { s.sch with irqPending := true } := rfl
@[simp] theorem raiseTick_dma : (raiseTick s).dma = s.dma := rfl
@[simp] theorem raiseTick_gen : (raiseTick s).gen = s.gen := rfl
@[simp] theorem raiseTick_out : (raiseTick s).out = s.out := rfl
@[simp] theorem raiseTick_env : (raiseTick s).env = s.env := rfl

/-! ### clearTick -/

@[simp] theorem clearTick_cfg : (clearTick s).cfg = s.cfg := rfl
@[simp] theorem clearTick_sys : (clearTick s).sys = s.sys := rfl
@[simp] theorem clearTick_ctx : (clearTick s).ctx = s.ctx := rfl
@[simp] theorem clearTick_mem : (clearTick s).mem = s.mem := rfl
@[simp] theorem clearTick_bld : (clearTick s).bld = s.bld := rfl
@[simp] theorem clearTick_sch : (clearTick s).sch = { s.sch with irqPending := false } := rfl
@[simp] theorem clearTick_dma : (clearTick s).dma = s.dma := rfl
@[simp] theorem clearTick_gen : (clearTick s).gen = s.gen := rfl
@[simp] theorem clearTick_out : (clearTick s).out = s.out := rfl
@[simp] theorem clearTick_env : (clearTick s).env = s.env := rfl

/-! ### nextDeadline -/

@[simp] theorem nextDeadline_cfg : (nextDeadline s).cfg = s.cfg := rfl
@[simp] theorem nextDeadline_sys : (nextDeadline s).sys = s.sys := rfl
@[simp] theorem nextDeadline_ctx : (nextDeadline s).ctx = s.ctx := rfl
@[simp] theorem nextDeadline_mem : (nextDeadline s).mem = s.mem := rfl
@[simp] theorem nextDeadline_bld : (nextDeadline s).bld = s.bld := rfl
@[simp] theorem nextDeadline_sch : (nextDeadline s).sch = { s.sch with deadline := if s.cfg.timed then s.sch.deadline + s.cfg.tickPeriod else s.sch.deadline } := rfl
@[simp] theorem nextDeadline_dma : (nextDeadline s).dma = s.dma := rfl
@[simp] theorem nextDeadline_gen : (nextDeadline s).gen = s.gen := rfl
@[simp] theorem nextDeadline_out : (nextDeadline s).out = s.out := rfl
@[simp] theorem nextDeadline_env : (nextDeadline s).env = s.env := rfl

/-! ### sendBit -/

@[simp] theorem sendBit_cfg : (sendBit s).cfg = s.cfg := rfl
@[simp] theorem sendBit_sys : (sendBit s).sys = s.sys := rfl
@[simp] theorem sendBit_ctx : (sendBit s).ctx = s.ctx := rfl
@[simp] theorem sendBit_mem : (sendBit s).mem = s.mem := rfl
@[simp] theorem sendBit_bld : (sendBit s).bld = s.bld := rfl
@[simp] theorem sendBit_sch : (sendBit s).sch = s.sch := rfl
@[simp] theorem sendBit_dma : (sendBit s).dma = s.dma := rfl
@[simp] theorem sendBit_gen : (sendBit s).gen = shiftOut s.gen := rfl
@[simp] theorem sendBit_out : (sendBit s).out = s.out ++ [bitSymbol (s.gen.osr.getLsbD 31)] := rfl

/-! ### sendReset -/

@[simp] theorem sendReset_cfg : (sendReset s).cfg = s.cfg := rfl
@[simp] theorem sendReset_sys : (sendReset s).sys = s.sys := rfl
@[simp] theorem sendReset_ctx : (sendReset s).ctx = s.ctx := rfl
@[simp] theorem sendReset_mem : (sendReset s).mem = s.mem := rfl
@[simp] theorem sendReset_bld : (sendReset s).bld = s.bld := rfl
@[simp] theorem sendReset_sch : (sendReset s).sch = s.sch := rfl
@[simp] theorem sendReset_dma : (sendReset s).dma = s.dma := rfl
@[simp] theorem sendReset_gen : (sendReset s).gen = { s.gen with phase := .hdr } := rfl
@[simp] theorem sendReset_out : (sendReset s).out = s.out ++ [.symRst] := rfl

/-! ### passTime -/

@[simp] theorem passTime_cfg (dt : Nat) : (passTime s dt).cfg = s.cfg := rfl
@[simp] theorem passTime_sys (dt : Nat) : (passTime s dt).sys = s.sys := rfl
@[simp] theorem passTime_ctx (dt : Nat) : (passTime s dt).ctx = s.ctx := rfl
@[simp] theorem passTime_mem (dt : Nat) : (passTime s dt).mem = s.mem := rfl
@[simp] theorem passTime_bld (dt : Nat) : (passTime s dt).bld = s.bld := rfl
@[simp] theorem passTime_sch (dt : Nat) : (passTime s dt).sch = s.sch := rfl
@[simp] theorem passTime_dma (dt : Nat) : (passTime s dt).dma = s.dma := rfl
@[simp] theorem passTime_gen (dt : Nat) : (passTime s dt).gen = s.gen := rfl
@[simp] theorem passTime_out (dt : Nat) : (passTime s dt).out = s.out := rfl
@[simp] theorem passTime_env (dt : Nat) : (passTime s dt).env = { s.env with now := timeAfter s dt } := rfl

/-! ### placeEntry -/

@[simp] theorem placeEntry_cfg (item : Item) : (placeEntry s item).cfg = s.cfg := rfl
@[simp] theorem placeEntry_sys (item : Item) : (placeEntry s item).sys = s.sys := rfl
@[simp] theorem placeEntry_ctx (item : Item) : (placeEntry s item).ctx = s.ctx := rfl
@[simp] theorem placeEntry_mem (item : Item) : (placeEntry s item).mem = s.mem := rfl
@[simp] theorem placeEntry_bld (item : Item) : (placeEntry s item).bld = s.bld := rfl
@[simp] theorem placeEntry_sch (item : Item) : (placeEntry s item).sch = s.sch := rfl
@[simp] theorem placeEntry_dma (item : Item) : (placeEntry s item).dma = s.dma := rfl
@[simp] theorem placeEntry_gen (item : Item) : (placeEntry s item).gen = s.gen := rfl
@[simp] theorem placeEntry_out (item : Item) : (placeEntry s item).out = s.out := rfl
@[simp] theorem placeEntry_env (item : Item) : (placeEntry s item).env = { s.env with sched := { dt := 0, item := item } :: s.env.sched } := rfl

/-! ### swapSlots: the fields it never writes -/

@[simp] theorem swapSlots_cfg : (swapSlots s).cfg = s.cfg := by unfold swapSlots; split <;> rfl
@[simp] theorem swapSlots_sys : (swapSlots s).sys = s.sys := by unfold swapSlots; split <;> rfl
@[simp] theorem swapSlots_mem : (swapSlots s).mem = s.mem := by unfold swapSlots; split <;> rfl
@[simp] theorem swapSlots_bld : (swapSlots s).bld = s.bld := by unfold swapSlots; split <;> rfl
@[simp] theorem swapSlots_sch : (swapSlots s).sch = s.sch := by unfold swapSlots; split <;> rfl
@[simp] theorem swapSlots_dma : (swapSlots s).dma = s.dma := by unfold swapSlots; split <;> rfl
@[simp] theorem swapSlots_gen : (swapSlots s).gen = s.gen := by unfold swapSlots; split <;> rfl
@[simp] theorem swapSlots_out : (swapSlots s).out = s.out := by unfold swapSlots; split <;> rfl
@[simp] theorem swapSlots_env : (swapSlots s).env = s.env := by unfold swapSlots; split <;> rfl

/-! ### handlerSwap: the fields it never writes -/

@[simp] theorem handlerSwap_cfg : (handlerSwap s).cfg = s.cfg := by unfold handlerSwap; split <;> simp
@[simp] theorem handlerSwap_sys : (handlerSwap s).sys = s.sys := by unfold handlerSwap; split <;> simp
@[simp] theorem handlerSwap_mem : (handlerSwap s).mem = s.mem := by unfold handlerSwap; split <;> simp
@[simp] theorem handlerSwap_bld : (handlerSwap s).bld = s.bld := by unfold handlerSwap; split <;> simp
@[simp] theorem handlerSwap_sch : (handlerSwap s).sch = s.sch := by unfold handlerSwap; split <;> simp
@[simp] theorem handlerSwap_dma : (handlerSwap s).dma = s.dma := by unfold handlerSwap; split <;> simp
@[simp] theorem handlerSwap_gen : (handlerSwap s).gen = s.gen := by unfold handlerSwap; split <;> simp
@[simp] theorem handlerSwap_out : (handlerSwap s).out = s.out := by unfold handlerSwap; split <;> simp
@[simp] theorem handlerSwap_env : (handlerSwap s).env = s.env := by unfold handlerSwap; split <;> simp

/-! ### triggerEngine: the fields it never writes -/

@[simp] theorem triggerEngine_cfg (addr : Addr) : (triggerEngine s addr).cfg = s.cfg := by unfold triggerEngine dropTrigger; (repeat' split) <;> rfl
@[simp] theorem triggerEngine_sys (addr : Addr) : (triggerEngine s addr).sys = s.sys := by unfold triggerEngine dropTrigger; (repeat' split) <;> rfl
@[simp] theorem triggerEngine_ctx (addr : Addr) : (triggerEngine s addr).ctx = s.ctx := by unfold triggerEngine dropTrigger; (repeat' split) <;> rfl
@[simp] theorem triggerEngine_mem (addr : Addr) : (triggerEngine s addr).mem = s.mem := by unfold triggerEngine dropTrigger; (repeat' split) <;> rfl
@[simp] theorem triggerEngine_bld (addr : Addr) : (triggerEngine s addr).bld = s.bld := by unfold triggerEngine dropTrigger; (repeat' split) <;> rfl
@[simp] theorem triggerEngine_gen (addr : Addr) : (triggerEngine s addr).gen = s.gen := by unfold triggerEngine dropTrigger; (repeat' split) <;> rfl
@[simp] theorem triggerEngine_out (addr : Addr) : (triggerEngine s addr).out = s.out := by unfold triggerEngine dropTrigger; (repeat' split) <;> rfl
@[simp] theorem triggerEngine_env_now (addr : Addr) : (triggerEngine s addr).env.now = s.env.now := by unfold triggerEngine dropTrigger; (repeat' split) <;> rfl
@[simp] theorem triggerEngine_env_genUntil (addr : Addr) : (triggerEngine s addr).env.genUntil = s.env.genUntil := by unfold triggerEngine dropTrigger; (repeat' split) <;> rfl
@[simp] theorem triggerEngine_env_outAt (addr : Addr) : (triggerEngine s addr).env.outAt = s.env.outAt := by unfold triggerEngine dropTrigger; (repeat' split) <;> rfl
@[simp] theorem triggerEngine_env_epoch (addr : Addr) : (triggerEngine s addr).env.epoch = s.env.epoch := by unfold triggerEngine dropTrigger; (repeat' split) <;> rfl

/-! ### completeTransfer: the fields it never writes -/

@[simp] theorem completeTransfer_cfg : (completeTransfer s).cfg = s.cfg := by unfold completeTransfer; split <;> rfl
@[simp] theorem completeTransfer_sys : (completeTransfer s).sys = s.sys := by unfold completeTransfer; split <;> rfl
@[simp] theorem completeTransfer_ctx : (completeTransfer s).ctx = s.ctx := by unfold completeTransfer; split <;> rfl
@[simp] theorem completeTransfer_mem : (completeTransfer s).mem = s.mem := by unfold completeTransfer; split <;> rfl
@[simp] theorem completeTransfer_bld : (completeTransfer s).bld = s.bld := by unfold completeTransfer; split <;> rfl
@[simp] theorem completeTransfer_sch : (completeTransfer s).sch = s.sch := by unfold completeTransfer; split <;> rfl
@[simp] theorem completeTransfer_gen : (completeTransfer s).gen = s.gen := by unfold completeTransfer; split <;> rfl
@[simp] theorem completeTransfer_out : (completeTransfer s).out = s.out := by unfold completeTransfer; split <;> rfl
@[simp] theorem completeTransfer_env : (completeTransfer s).env = s.env := by unfold completeTransfer; split <;> rfl

/-! ### moveWord: the fields it never writes -/

@[simp] theorem moveWord_cfg (w : Word) : (moveWord s w).cfg = s.cfg := by unfold moveWord; split <;> simp
@[simp] theorem moveWord_sys (w : Word) : (moveWord s w).sys = s.sys := by unfold moveWord; split <;> simp
@[simp] theorem moveWord_ctx (w : Word) : (moveWord s w).ctx = s.ctx := by unfold moveWord; split <;> simp
@[simp] theorem moveWord_mem (w : Word) : (moveWord s w).mem = s.mem := by unfold moveWord; split <;> simp
@[simp] theorem moveWord_bld (w : Word) : (moveWord s w).bld = s.bld := by unfold moveWord; split <;> simp
@[simp] theorem moveWord_sch (w : Word) : (moveWord s w).sch = s.sch := by unfold moveWord; split <;> simp
@[simp] theorem moveWord_out (w : Word) : (moveWord s w).out = s.out := by unfold moveWord; split <;> simp
@[simp] theorem moveWord_env (w : Word) : (moveWord s w).env = s.env := by unfold moveWord; split <;> simp

/-! ### takeHeader: the fields it never writes -/

@[simp] theorem takeHeader_cfg : (takeHeader s).cfg = s.cfg := by unfold takeHeader; split <;> rfl
@[simp] theorem takeHeader_sys : (takeHeader s).sys = s.sys := by unfold takeHeader; split <;> rfl
@[simp] theorem takeHeader_ctx : (takeHeader s).ctx = s.ctx := by unfold takeHeader; split <;> rfl
@[simp] theorem takeHeader_mem : (takeHeader s).mem = s.mem := by unfold takeHeader; split <;> rfl
@[simp] theorem takeHeader_bld : (takeHeader s).bld = s.bld := by unfold takeHeader; split <;> rfl
@[simp] theorem takeHeader_sch : (takeHeader s).sch = s.sch := by unfold takeHeader; split <;> rfl
@[simp] theorem takeHeader_dma : (takeHeader s).dma = s.dma := by unfold takeHeader; split <;> rfl
@[simp] theorem takeHeader_out : (takeHeader s).out = s.out := by unfold takeHeader; split <;> rfl
@[simp] theorem takeHeader_env : (takeHeader s).env = s.env := by unfold takeHeader; split <;> rfl

/-! ### takeColour: the fields it never writes -/

@[simp] theorem takeColour_cfg : (takeColour s).cfg = s.cfg := by unfold takeColour; split <;> rfl
@[simp] theorem takeColour_sys : (takeColour s).sys = s.sys := by unfold takeColour; split <;> rfl
@[simp] theorem takeColour_ctx : (takeColour s).ctx = s.ctx := by unfold takeColour; split <;> rfl
@[simp] theorem takeColour_mem : (takeColour s).mem = s.mem := by unfold takeColour; split <;> rfl
@[simp] theorem takeColour_bld : (takeColour s).bld = s.bld := by unfold takeColour; split <;> rfl
@[simp] theorem takeColour_sch : (takeColour s).sch = s.sch := by unfold takeColour; split <;> rfl
@[simp] theorem takeColour_dma : (takeColour s).dma = s.dma := by unfold takeColour; split <;> rfl
@[simp] theorem takeColour_out : (takeColour s).out = s.out := by unfold takeColour; split <;> rfl
@[simp] theorem takeColour_env : (takeColour s).env = s.env := by unfold takeColour; split <;> rfl

/-! ### takeEntry: the fields it never writes -/

@[simp] theorem takeEntry_cfg : (takeEntry s).cfg = s.cfg := by unfold takeEntry; split <;> rfl
@[simp] theorem takeEntry_sys : (takeEntry s).sys = s.sys := by unfold takeEntry; split <;> rfl
@[simp] theorem takeEntry_ctx : (takeEntry s).ctx = s.ctx := by unfold takeEntry; split <;> rfl
@[simp] theorem takeEntry_mem : (takeEntry s).mem = s.mem := by unfold takeEntry; split <;> rfl
@[simp] theorem takeEntry_bld : (takeEntry s).bld = s.bld := by unfold takeEntry; split <;> rfl
@[simp] theorem takeEntry_sch : (takeEntry s).sch = s.sch := by unfold takeEntry; split <;> rfl
@[simp] theorem takeEntry_dma : (takeEntry s).dma = s.dma := by unfold takeEntry; split <;> rfl
@[simp] theorem takeEntry_gen : (takeEntry s).gen = s.gen := by unfold takeEntry; split <;> rfl
@[simp] theorem takeEntry_out : (takeEntry s).out = s.out := by unfold takeEntry; split <;> rfl
@[simp] theorem takeEntry_env_now : (takeEntry s).env.now = s.env.now := by unfold takeEntry; split <;> rfl
@[simp] theorem takeEntry_env_genUntil : (takeEntry s).env.genUntil = s.env.genUntil := by unfold takeEntry; split <;> rfl
@[simp] theorem takeEntry_env_outAt : (takeEntry s).env.outAt = s.env.outAt := by unfold takeEntry; split <;> rfl
@[simp] theorem takeEntry_env_epoch : (takeEntry s).env.epoch = s.env.epoch := by unfold takeEntry; split <;> rfl

/-! ### fetched: the fields it never writes -/

@[simp] theorem fetched_cfg : (fetched s).cfg = s.cfg := by simp [fetched]
@[simp] theorem fetched_sys : (fetched s).sys = s.sys := by simp [fetched]
@[simp] theorem fetched_ctx : (fetched s).ctx = s.ctx := by simp [fetched]
@[simp] theorem fetched_mem : (fetched s).mem = s.mem := by simp [fetched]
@[simp] theorem fetched_bld : (fetched s).bld = s.bld := by simp [fetched]
@[simp] theorem fetched_sch : (fetched s).sch = s.sch := by simp [fetched]
@[simp] theorem fetched_dma : (fetched s).dma = s.dma := by simp [fetched]
@[simp] theorem fetched_gen : (fetched s).gen = s.gen := by simp [fetched]
@[simp] theorem fetched_out : (fetched s).out = s.out := by simp [fetched]
@[simp] theorem fetched_env_genUntil : (fetched s).env.genUntil = s.env.genUntil := by simp [fetched]
@[simp] theorem fetched_env_outAt : (fetched s).env.outAt = s.env.outAt := by simp [fetched]
@[simp] theorem fetched_env_epoch : (fetched s).env.epoch = s.env.epoch := by simp [fetched]

/-! ### tickHandler: the fields it never writes -/

@[simp] theorem tickHandler_cfg : (tickHandler s).cfg = s.cfg := by simp [tickHandler]
@[simp] theorem tickHandler_sys : (tickHandler s).sys = s.sys := by simp [tickHandler]
@[simp] theorem tickHandler_mem : (tickHandler s).mem = s.mem := by simp [tickHandler]
@[simp] theorem tickHandler_bld : (tickHandler s).bld = s.bld := by simp [tickHandler]
@[simp] theorem tickHandler_gen : (tickHandler s).gen = s.gen := by simp [tickHandler]
@[simp] theorem tickHandler_out : (tickHandler s).out = s.out := by simp [tickHandler]
@[simp] theorem tickHandler_env_now : (tickHandler s).env.now = s.env.now := by simp [tickHandler]
@[simp] theorem tickHandler_env_genUntil : (tickHandler s).env.genUntil = s.env.genUntil := by simp [tickHandler]
@[simp] theorem tickHandler_env_outAt : (tickHandler s).env.outAt = s.env.outAt := by simp [tickHandler]
@[simp] theorem tickHandler_env_epoch : (tickHandler s).env.epoch = s.env.epoch := by simp [tickHandler]

/-! ### The rest of a transfer step -/

/-- `XFER` pushes its word whatever else it does (rule R164). -/
@[simp] theorem moveWord_gen (w : Word) : (moveWord s w).gen = pushInq s.gen w := by
  unfold moveWord completeTransfer; (repeat' split) <;> rfl

/-! ### resetBlock -/

@[simp] theorem resetBlock_cfg : (resetBlock s).cfg = s.cfg := rfl
@[simp] theorem resetBlock_mem : (resetBlock s).mem = [] := rfl
@[simp] theorem resetBlock_out : (resetBlock s).out = [] := rfl
@[simp] theorem resetBlock_sys : (resetBlock s).sys = State.reset.sys := rfl
@[simp] theorem resetBlock_ctx : (resetBlock s).ctx = State.reset.ctx := rfl
@[simp] theorem resetBlock_bld : (resetBlock s).bld = State.reset.bld := rfl
@[simp] theorem resetBlock_sch : (resetBlock s).sch = State.reset.sch := rfl
@[simp] theorem resetBlock_dma : (resetBlock s).dma = State.reset.dma := rfl
@[simp] theorem resetBlock_gen : (resetBlock s).gen = State.reset.gen := rfl

end Sys2Proof.Machine
end

