-- ==== Sys2Proof/Laws/Memory.lean ====
section
/-! SUPPORT. Sys2Proof/Laws/Memory.lean: reads after writes, and the canonical form of memory. -/

namespace Sys2Proof.Machine

/-! ## One byte -/

/-- A store of a byte is seen at its address and nowhere else. -/
theorem lookupByte_insertByte (mem : List Host.Cell) (a c : Nat) (b : Byte) :
    lookupByte (insertByte mem a b) c = if a = c then some b else lookupByte mem c := by
  induction mem with
  | nil => simp [insertByte, lookupByte]
  | cons cell rest ih =>
    obtain ⟨k, d⟩ := cell
    by_cases h1 : a < k
    · simp only [insertByte, if_pos h1, lookupByte]
    · by_cases h2 : a = k
      · subst h2
        simp only [insertByte, if_neg h1, if_true, lookupByte]
        split_ifs <;> rfl
      · simp only [insertByte, if_neg h1, if_neg h2, lookupByte, ih]
        by_cases h3 : k = c
        · rw [if_pos h3, if_neg (by omega)]
          simp [h3]
        · simp [h3]

/-- The canonical form survives the store of one byte. -/
theorem sortedFrom_insertByte (mem : List Host.Cell) (low a : Nat) (b : Byte) (ha : a < 2 ^ 32) (hl : low ≤ a)
    (h : sortedFrom low mem = true) : sortedFrom low (insertByte mem a b) = true := by
  induction mem generalizing low with
  | nil => simp [insertByte, sortedFrom]; omega
  | cons cell rest ih =>
    obtain ⟨k, d⟩ := cell
    simp only [sortedFrom, Bool.and_eq_true, decide_eq_true_eq] at h
    unfold insertByte
    split_ifs with h1 h2
    · simp only [sortedFrom, Bool.and_eq_true, decide_eq_true_eq]
      exact ⟨⟨hl, ha⟩, ⟨by omega, by omega⟩, h.2⟩
    · subst h2; simp only [sortedFrom, Bool.and_eq_true, decide_eq_true_eq]; exact h
    · simp only [sortedFrom, Bool.and_eq_true, decide_eq_true_eq]
      exact ⟨h.1, ih _ (by omega) h.2⟩

/-- Storing a byte that is already there changes nothing in a canonical memory. -/
theorem insertByte_same (mem : List Host.Cell) (low a : Nat) (b : Byte) (h : sortedFrom low mem = true)
    (hb : lookupByte mem a = some b) : insertByte mem a b = mem := by
  induction mem generalizing low with
  | nil => simp [lookupByte] at hb
  | cons cell rest ih =>
    obtain ⟨k, d⟩ := cell
    simp only [sortedFrom, Bool.and_eq_true, decide_eq_true_eq] at h
    have below : ∀ (r : List Host.Cell) (lo : Nat), sortedFrom lo r = true → a < lo → lookupByte r a = none := by
      intro r
      induction r with
      | nil => intros; rfl
      | cons c2 r2 ih2 =>
        obtain ⟨k2, d2⟩ := c2
        intro lo hs hlt
        simp only [sortedFrom, Bool.and_eq_true, decide_eq_true_eq] at hs
        simp only [lookupByte]
        rw [if_neg (by omega)]
        exact ih2 _ hs.2 (by omega)
    simp only [lookupByte] at hb
    unfold insertByte
    by_cases hk : k = a
    · subst hk
      rw [if_pos rfl] at hb
      simp only [Option.some.injEq] at hb
      simp [hb]
    · rw [if_neg hk] at hb
      have hlt : ¬ a < k := by
        intro hlt
        rw [below rest (k + 1) h.2 (by omega)] at hb
        cases hb
      rw [if_neg hlt, if_neg (by omega), ih _ h.2 hb]

/-! ## One word -/

theorem toNat_add_lt (a : Addr) (k : Addr) : (a + k).toNat < 2 ^ 32 := (a + k).isLt

/-- A store of a word keeps the canonical form (every memory write goes through `storeWord`). -/
theorem memoryWf_storeWord (mem : List Host.Cell) (a : Addr) (w : Word) (h : memoryWf mem = true) :
    memoryWf (storeWord mem a w) = true := by
  unfold memoryWf storeWord at *
  refine sortedFrom_insertByte _ _ _ _ (BitVec.isLt _) (Nat.zero_le _) ?_
  refine sortedFrom_insertByte _ _ _ _ (BitVec.isLt _) (Nat.zero_le _) ?_
  refine sortedFrom_insertByte _ _ _ _ (BitVec.isLt _) (Nat.zero_le _) ?_
  exact sortedFrom_insertByte _ _ _ _ (BitVec.isLt _) (Nat.zero_le _) h

/-- Memory after reset has the canonical form. -/
theorem memoryWf_reset : memoryWf State.reset.mem = true := rfl

/-- Memory after the operation `RESET` has the canonical form. -/
theorem memoryWf_resetBlock (s : State) : memoryWf (resetBlock s).mem = true := rfl

/-- The byte a stored word leaves at each address of it, and what stays elsewhere. -/
theorem lookupByte_storeWord (mem : List Host.Cell) (a : Addr) (w : Word) (c : Addr) :
    lookupByte (storeWord mem a w) c.toNat =
      if c = a + 3 then some (w.extractLsb' 24 8)
      else if c = a + 2 then some (w.extractLsb' 16 8)
      else if c = a + 1 then some (w.extractLsb' 8 8)
      else if c = a then some (w.extractLsb' 0 8)
      else lookupByte mem c.toNat := by
  unfold storeWord
  simp only [lookupByte_insertByte, ← BitVec.toNat_inj]
  simp only [eq_comm (a := c.toNat)]

/-- A read of one byte depends on memory, the configuration and the epoch alone. -/
theorem readByte_congr (s t : State) (hm : t.mem = s.mem) (hc : t.cfg = s.cfg) (he : t.env.epoch = s.env.epoch)
    (a : Addr) : readByte t a = readByte s a := by
  unfold readByte; rw [hm, hc, he]

/-- A read of one word depends on memory, the configuration and the epoch alone. -/
theorem memRead_congr (s t : State) (hm : t.mem = s.mem) (hc : t.cfg = s.cfg) (he : t.env.epoch = s.env.epoch)
    (a : Addr) : memRead t a = memRead s a := by
  unfold memRead; simp only [readByte_congr s t hm hc he]

/-- What one byte reads as after a word was stored. -/
theorem readByte_memWrite (s : State) (a : Addr) (w : Word) (c : Addr) :
    readByte (memWrite s a w) c =
      if c = a + 3 then some (w.extractLsb' 24 8)
      else if c = a + 2 then some (w.extractLsb' 16 8)
      else if c = a + 1 then some (w.extractLsb' 8 8)
      else if c = a then some (w.extractLsb' 0 8)
      else readByte s c := by
  unfold readByte
  simp only [memWrite_mem, memWrite_cfg, memWrite_env, lookupByte_storeWord]
  split_ifs <;> rfl

/-- A byte outside the four stored ones reads as before. -/
theorem readByte_memWrite_outside (s : State) (a : Addr) (w : Word) (c : Addr) (h0 : c ≠ a) (h1 : c ≠ a + 1)
    (h2 : c ≠ a + 2) (h3 : c ≠ a + 3) : readByte (memWrite s a w) c = readByte s c := by
  rw [readByte_memWrite, if_neg h3, if_neg h2, if_neg h1, if_neg h0]

/-- The four bytes of a word, put together again (rule R62). -/
theorem word_of_bytes (w : Word) :
    w.extractLsb' 24 8 ++ w.extractLsb' 16 8 ++ w.extractLsb' 8 8 ++ w.extractLsb' 0 8 = w := by
  apply BitVec.eq_of_getLsbD_eq
  intro i hi
  simp only [BitVec.getLsbD_append, BitVec.getLsbD_extractLsb']
  have h : i < 8 ∨ (8 ≤ i ∧ i < 16) ∨ (16 ≤ i ∧ i < 24) ∨ (24 ≤ i ∧ i < 32) := by omega
  rcases h with h | h | h | h
  · simp [h]
  · have e1 : ¬ i < 8 := by omega
    have e2 : i - 8 < 8 := by omega
    simp [e1, e2]; congr 1; omega
  · have e1 : ¬ i < 8 := by omega
    have e2 : ¬ i - 8 < 8 := by omega
    have e3 : i - 8 - 8 < 8 := by omega
    simp [e1, e2, e3]; congr 1; omega
  · have e1 : ¬ i < 8 := by omega
    have e2 : ¬ i - 8 < 8 := by omega
    have e3 : ¬ i - 8 - 8 < 8 := by omega
    have e4 : i - 8 - 8 - 8 < 8 := by omega
    simp [e1, e2, e3, e4]; congr 1; omega

/-- A word reads back as it was stored (rules R62, R68). -/
theorem memRead_memWrite_same (s : State) (a : Addr) (w : Word) : memRead (memWrite s a w) a = some w := by
  have n01 : a ≠ a + 1 := by bv_omega
  have n02 : a ≠ a + 2 := by bv_omega
  have n03 : a ≠ a + 3 := by bv_omega
  have n12 : a + 1 ≠ a + 2 := by bv_omega
  have n13 : a + 1 ≠ a + 3 := by bv_omega
  have n23 : a + 2 ≠ a + 3 := by bv_omega
  unfold memRead
  simp only [readByte_memWrite, if_neg n01, if_neg n02, if_neg n03, if_neg n12, if_neg n13, if_neg n23, if_true]
  simp only [word_of_bytes]

/-- Two aligned words at different addresses share no byte: a word elsewhere reads as before (rules R64, R68). -/
theorem memRead_memWrite_aligned (s : State) (a c : Addr) (w : Word) (ha : a.toNat % 4 = 0) (hc : c.toNat % 4 = 0)
    (hne : c ≠ a) : memRead (memWrite s a w) c = memRead s c := by
  have key : ∀ i j : BitVec 32, i.toNat < 4 → j.toNat < 4 → c + i ≠ a + j := by
    intro i j hi hj h
    apply hne
    have h' := congrArg BitVec.toNat h
    simp only [BitVec.toNat_add] at h'
    apply BitVec.eq_of_toNat_eq
    have := c.isLt; have := a.isLt
    omega
  have z : ∀ x : Addr, x + 0 = x := by simp
  have k00 := key 0 0 (by decide) (by decide)
  have out : ∀ i : BitVec 32, i.toNat < 4 → readByte (memWrite s a w) (c + i) = readByte s (c + i) := by
    intro i hi
    refine readByte_memWrite_outside s a w _ ?_ (key i 1 hi (by decide)) (key i 2 hi (by decide))
      (key i 3 hi (by decide))
    have := key i 0 hi (by decide)
    rwa [z] at this
  unfold memRead
  have o0 := out 0 (by decide)
  rw [z] at o0
  rw [o0, out 1 (by decide), out 2 (by decide), out 3 (by decide)]

/-- Storing a word that is already there, byte for byte, changes nothing in a canonical memory. -/
theorem storeWord_same (mem : List Host.Cell) (a : Addr) (w : Word) (h : memoryWf mem = true)
    (h0 : lookupByte mem a.toNat = some (w.extractLsb' 0 8)) (h1 : lookupByte mem (a + 1).toNat = some (w.extractLsb' 8 8))
    (h2 : lookupByte mem (a + 2).toNat = some (w.extractLsb' 16 8))
    (h3 : lookupByte mem (a + 3).toNat = some (w.extractLsb' 24 8)) : storeWord mem a w = mem := by
  unfold storeWord memoryWf at *
  rw [insertByte_same mem 0 _ _ h h0, insertByte_same mem 0 _ _ h h1, insertByte_same mem 0 _ _ h h2,
    insertByte_same mem 0 _ _ h h3]

end Sys2Proof.Machine
end

