-- ==== Sys2Proof/Laws/Exec.lean ====
section
/-! SUPPORT. Sys2Proof/Laws/Exec.lean: what each meaning answers, said once, and what a next state of it can be. -/

namespace Sys2Proof.Machine

variable {s t : State}

/-- A guarded operation that answers a next state took its effect, or was not enabled and did nothing. -/
theorem guarded_next {c : Bool} {a b : State}
    (h : (if c then Host.Outcome.next a else Host.Outcome.next b : Host.Outcome State Fault Refusal) = .next t) :
    (c = true ∧ t = a) ∨ (c = false ∧ t = b) := by
  cases c
  · exact .inr ⟨rfl, (Host.Outcome.next.inj h).symm⟩
  · exact .inl ⟨rfl, (Host.Outcome.next.inj h).symm⟩

theorem execReset_next (h : execReset s = .next t) : t = resetBlock s := (Host.Outcome.next.inj h).symm

/-- `INIT` claims the resources, raises one of its two faults, or is stuck. -/
theorem execInit_next {c g : Bool} (h : execInit c g s = .next t) :
    (hostFree s = true ∧ s.sys.state = .reset ∧ c = true ∧ g = true ∧ t = claimResources s) ∨
    (hostFree s = true ∧ s.sys.state = .reset ∧ c = true ∧ g = false ∧ t = raiseFault s .noGenerator) ∨
    (hostFree s = true ∧ s.sys.state = .reset ∧ c = false ∧ t = raiseFault s .noChannel) ∨ t = s := by
  unfold execInit at h
  cases hf : hostFree s <;> simp only [hf, if_true, if_false, Bool.false_eq_true] at h
  · exact .inr (.inr (.inr (Host.Outcome.next.inj h).symm))
  · cases hs : s.sys.state <;> simp only [hs] at h
    · cases c <;> cases g <;> simp only [if_true, if_false, Bool.false_eq_true] at h <;>
        have h := (Host.Outcome.next.inj h).symm <;> simp [h]
    · cases h
    · exact .inr (.inr (.inr (Host.Outcome.next.inj h).symm))

/-- `RDCSR` replies a register, replies a draw, or is stuck. -/
theorem execRdcsr_next {n : Nat} (h : execRdcsr n s = .next t) :
    (∃ w, csr s n = some w ∧ csrUnspecified s n = false ∧ t = replyWord s w) ∨
    (csrUnspecified s n = true ∧ t = replyDraw s) ∨ t = s := by
  unfold execRdcsr at h
  cases hf : hostFree s <;> simp only [hf, if_true, if_false, Bool.false_eq_true] at h
  · exact .inr (.inr (Host.Outcome.next.inj h).symm)
  · split at h
    · cases h
    · rename_i w hw
      rcases guarded_next h with ⟨hu, ht⟩ | ⟨hu, ht⟩
      · exact .inr (.inl ⟨hu, ht⟩)
      · exact .inl ⟨w, hw, hu, ht⟩

/-- `CONV` replies a colour word, or is stuck. -/
theorem execConv_next {h' s' v' : Operand} (h : execConv h' s' v' s = .next t) :
    (∃ x y z, operandValues s.cfg.arith h' s' v' = some (x, y, z) ∧ t = replyWord s (conv s.cfg.arith x y z)) ∨
    t = s := by
  unfold execConv at h
  cases hf : hostFree s <;> simp only [hf, if_true, if_false, Bool.false_eq_true] at h
  · exact .inr (Host.Outcome.next.inj h).symm
  · split at h
    · cases h
    · rename_i x y z hv
      exact .inl ⟨x, y, z, hv, (Host.Outcome.next.inj h).symm⟩

/-- `BUILD` starts a build, or is stuck. -/
theorem execBuild_next {h' s' v' : Operand} (h : execBuild h' s' v' s = .next t) :
    (∃ x y z, hostOpen s = true ∧ operandValues s.cfg.arith h' s' v' = some (x, y, z) ∧ t = startBuild s x y z) ∨
    t = s := by
  unfold execBuild at h
  cases hf : hostOpen s <;> simp only [hf, if_true, if_false, Bool.false_eq_true] at h
  · exact .inr (Host.Outcome.next.inj h).symm
  · split at h
    · cases h
    · rename_i x y z hv
      exact .inl ⟨x, y, z, rfl, hv, (Host.Outcome.next.inj h).symm⟩

theorem execBldHdr_next (h : execBldHdr s = .next t) :
    (canBldHdr s = true ∧ t = storeHeader s) ∨ (canBldHdr s = false ∧ t = s) := guarded_next h

/-- `BLD.PIX` stores one pixel, ends the build with the last one, or is stuck. -/
theorem execBldPix_next (h : execBldPix s = .next t) :
    (canBldPix s = true ∧ s.bld.idx + 1 = frameWords s.cfg ∧ t = finishBuild (storePixel s)) ∨
    (canBldPix s = true ∧ s.bld.idx + 1 ≠ frameWords s.cfg ∧ t = storePixel s) ∨ (canBldPix s = false ∧ t = s) := by
  unfold execBldPix at h
  cases hc : canBldPix s <;> simp only [hc, if_true, if_false, Bool.false_eq_true] at h
  · exact .inr (.inr ⟨rfl, (Host.Outcome.next.inj h).symm⟩)
  · by_cases hi : (storePixel s).bld.idx = frameWords s.cfg
    · rw [if_pos hi] at h
      exact .inl ⟨rfl, hi, (Host.Outcome.next.inj h).symm⟩
    · rw [if_neg hi] at h
      exact .inr (.inl ⟨rfl, hi, (Host.Outcome.next.inj h).symm⟩)

/-- `ARM` faults, arms, or is stuck. -/
theorem execArm_next (h : execArm s = .next t) :
    (hostOpen s = true ∧ s.sys.state = .reset ∧ t = raiseFault s .genNotInit) ∨
    (hostOpen s = true ∧ s.sys.state ≠ .reset ∧ s.sch.state ≠ .armed ∧ t = armTimer s) ∨ t = s := by
  unfold execArm at h
  cases hf : hostOpen s <;> simp only [hf, if_true, if_false, Bool.false_eq_true] at h
  · exact .inr (.inr (Host.Outcome.next.inj h).symm)
  · by_cases h1 : s.sys.state = .reset
    · rw [if_pos h1] at h; exact .inl ⟨rfl, h1, (Host.Outcome.next.inj h).symm⟩
    · rw [if_neg h1] at h
      by_cases h2 : s.sch.state = .armed
      · rw [if_pos h2] at h; cases h
      · rw [if_neg h2] at h; exact .inr (.inl ⟨rfl, h1, h2, (Host.Outcome.next.inj h).symm⟩)

theorem execTick_next (h : execTick s = .next t) :
    (canTick s = true ∧ t = raiseTick s) ∨ (canTick s = false ∧ t = s) := guarded_next h

theorem execIrq_next (h : execIrq s = .next t) :
    (canIrq s = true ∧ t = tickHandler s) ∨ (canIrq s = false ∧ t = s) := guarded_next h

theorem execSwap_next (h : execSwap s = .next t) :
    (canSwap s = true ∧ t = swapSlots s) ∨ (canSwap s = false ∧ t = s) := guarded_next h

/-- `TRIGGER` reaches the engine on the block's channel at an aligned address, or is stuck. -/
theorem execTrigger_next {chan : Nat} {addr : Addr} (h : execTrigger chan addr s = .next t) :
    (canTrigger s = true ∧ chan = s.ctx.chan ∧ addr.toNat % 4 = 0 ∧ t = triggerEngine s addr) ∨
    (canTrigger s = false ∧ t = s) := by
  unfold execTrigger at h
  cases hc : canTrigger s <;> simp only [hc, if_true, if_false, Bool.false_eq_true] at h
  · exact .inr ⟨rfl, (Host.Outcome.next.inj h).symm⟩
  · by_cases h1 : chan = s.ctx.chan
    · rw [if_neg (by simp [h1])] at h
      by_cases h2 : addr.toNat % 4 = 0
      · rw [if_neg (by simp [h2])] at h
        exact .inl ⟨rfl, h1, h2, (Host.Outcome.next.inj h).symm⟩
      · rw [if_pos h2] at h; cases h
    · rw [if_pos h1] at h; cases h

/-- `XFER` moves a word memory holds, or is stuck. -/
theorem execXfer_next (h : execXfer s = .next t) :
    (∃ w, canXfer s = true ∧ memRead s s.dma.raddr = some w ∧ t = moveWord s w) ∨ (canXfer s = false ∧ t = s) := by
  unfold execXfer at h
  cases hc : canXfer s <;> simp only [hc, if_true, if_false, Bool.false_eq_true] at h
  · exact .inr ⟨rfl, (Host.Outcome.next.inj h).symm⟩
  · split at h
    · cases h
    · rename_i w hw
      exact .inl ⟨w, rfl, hw, (Host.Outcome.next.inj h).symm⟩

theorem execGenHdr_next (h : execGenHdr s = .next t) :
    (canGenHdr s = true ∧ t = takeHeader s) ∨ (canGenHdr s = false ∧ t = s) := guarded_next h

theorem execGenPix_next (h : execGenPix s = .next t) :
    (canGenPix s = true ∧ t = takeColour s) ∨ (canGenPix s = false ∧ t = s) := guarded_next h

theorem execGenBit_next (h : execGenBit s = .next t) :
    (canGenBit s = true ∧ t = sendBit s) ∨ (canGenBit s = false ∧ t = s) := guarded_next h

theorem execGenRst_next (h : execGenRst s = .next t) :
    (canGenRst s = true ∧ t = sendReset s) ∨ (canGenRst s = false ∧ t = s) := guarded_next h

/-! ## Words and symbols are steps of the generator -/

/-- A header word's step is a `GEN.HDR` step, or does nothing. -/
theorem execWHdr_next {c : BitVec 24} {l : Byte} (h : execWHdr c l s = .next t) :
    (canGenHdr s = true ∧ t = takeHeader s) ∨ t = s := by
  rcases guarded_next h with ⟨hc, ht⟩ | ⟨_, ht⟩
  · unfold takesHeader at hc
    exact .inl ⟨(Bool.and_eq_true_iff.mp hc).1, ht⟩
  · exact .inr ht

/-- A colour word's step is a `GEN.PIX` step, or does nothing. -/
theorem execWPix_next {g r b u : Byte} (h : execWPix g r b u s = .next t) :
    (canGenPix s = true ∧ t = takeColour s) ∨ t = s := by
  rcases guarded_next h with ⟨hc, ht⟩ | ⟨_, ht⟩
  · unfold takesColour at hc
    exact .inl ⟨(Bool.and_eq_true_iff.mp hc).1, ht⟩
  · exact .inr ht

/-- A 0 symbol's step is a `GEN.BIT` step, or does nothing. -/
theorem execSym0_next (h : execSym0 s = .next t) : (canGenBit s = true ∧ t = sendBit s) ∨ t = s := by
  rcases guarded_next h with ⟨hc, ht⟩ | ⟨_, ht⟩
  · unfold emitsBit at hc
    exact .inl ⟨(Bool.and_eq_true_iff.mp hc).1, ht⟩
  · exact .inr ht

/-- A 1 symbol's step is a `GEN.BIT` step, or does nothing. -/
theorem execSym1_next (h : execSym1 s = .next t) : (canGenBit s = true ∧ t = sendBit s) ∨ t = s := by
  rcases guarded_next h with ⟨hc, ht⟩ | ⟨_, ht⟩
  · unfold emitsBit at hc
    exact .inl ⟨(Bool.and_eq_true_iff.mp hc).1, ht⟩
  · exact .inr ht

/-- A reset symbol's step is a `GEN.RST` step, or does nothing. -/
theorem execSymRst_next (h : execSymRst s = .next t) : (canGenRst s = true ∧ t = sendReset s) ∨ t = s := by
  rcases guarded_next h with ⟨hc, ht⟩ | ⟨_, ht⟩
  · exact .inl ⟨hc, ht⟩
  · exact .inr ht

/-! ## Everything an operation can do -/

/-- The changes of state there are, each with the instructions that make it. -/
inductive Effect (i : Instr) (s : State) : State → Prop where
  | stuck : Effect i s s
  | reset (hi : i = .reset) : Effect i s (resetBlock s)
  | claim (hi : i = .init true true) (hs : s.sys.state = .reset) (hf : hostFree s = true) :
      Effect i s (claimResources s)
  | fault (c : Cause) (hi : (∃ cf gf, i = .init cf gf) ∨ i = .arm) (hc : c ≠ .none) (hs : s.sys.state = .reset) :
      Effect i s (raiseFault s c)
  | reply (w : Word) (hi : (∃ x y z, i = .conv x y z) ∨ ∃ n, i = .rdcsr n) : Effect i s (replyWord s w)
  | draw (hi : ∃ n, i = .rdcsr n) : Effect i s (replyDraw s)
  | build (x y z : Rat) (hi : ∃ a b c, i = .build a b c) (hf : hostOpen s = true) : Effect i s (startBuild s x y z)
  | header (hi : i = .bldHdr) (hc : canBldHdr s = true) : Effect i s (storeHeader s)
  | pixel (hi : i = .bldPix) (hc : canBldPix s = true) (hn : s.bld.idx + 1 ≠ frameWords s.cfg) :
      Effect i s (storePixel s)
  | lastPixel (hi : i = .bldPix) (hc : canBldPix s = true) (hn : s.bld.idx + 1 = frameWords s.cfg) :
      Effect i s (finishBuild (storePixel s))
  | arm (hi : i = .arm) (hf : hostOpen s = true) (hs : s.sys.state ≠ .reset) (hn : s.sch.state ≠ .armed) :
      Effect i s (armTimer s)
  | tick (hi : i = .tick) (hc : canTick s = true) : Effect i s (raiseTick s)
  | irq (hi : i = .irq) (hc : canIrq s = true) : Effect i s (tickHandler s)
  | trigger (chan : Nat) (addr : Addr) (hi : i = .trigger chan addr) (hc : canTrigger s = true)
      (ha : addr.toNat % 4 = 0) : Effect i s (triggerEngine s addr)
  | swap (hi : i = .swap) (hc : canSwap s = true) : Effect i s (swapSlots s)
  | xfer (w : Word) (hi : i = .xfer) (hc : canXfer s = true) (hw : memRead s s.dma.raddr = some w) :
      Effect i s (moveWord s w)
  | genHdr (hi : i = .genHdr ∨ ∃ c l, i = .wHdr c l) (hc : canGenHdr s = true) : Effect i s (takeHeader s)
  | genPix (hi : i = .genPix ∨ ∃ g r b u, i = .wPix g r b u) (hc : canGenPix s = true) : Effect i s (takeColour s)
  | genBit (hi : i = .genBit ∨ i = .sym0 ∨ i = .sym1) (hc : canGenBit s = true) : Effect i s (sendBit s)
  | genRst (hi : i = .genRst ∨ i = .symRst) (hc : canGenRst s = true) : Effect i s (sendReset s)

/-- An operation that answers a next state has one of these effects. -/
theorem exec_effect {i : Instr} (h : exec i s = .next t) : Effect i s t := by
  cases i with
  | reset => exact execReset_next h ▸ .reset rfl
  | init c g =>
    rcases execInit_next h with ⟨hf, hs, rfl, rfl, rfl⟩ | ⟨_, hs, _, _, rfl⟩ | ⟨_, hs, _, rfl⟩ | rfl
    · exact .claim rfl hs hf
    · exact .fault _ (.inl ⟨_, _, rfl⟩) (by decide) hs
    · exact .fault _ (.inl ⟨_, _, rfl⟩) (by decide) hs
    · exact .stuck
  | conv a b c =>
    rcases execConv_next h with ⟨_, _, _, _, rfl⟩ | rfl
    · exact .reply _ (.inl ⟨_, _, _, rfl⟩)
    · exact .stuck
  | build a b c =>
    rcases execBuild_next h with ⟨_, _, _, hf, _, rfl⟩ | rfl
    · exact .build _ _ _ ⟨_, _, _, rfl⟩ hf
    · exact .stuck
  | bldHdr =>
    rcases execBldHdr_next h with ⟨hc, rfl⟩ | ⟨_, rfl⟩
    · exact .header rfl hc
    · exact .stuck
  | bldPix =>
    rcases execBldPix_next h with ⟨hc, hi, rfl⟩ | ⟨hc, hi, rfl⟩ | ⟨_, rfl⟩
    · exact .lastPixel rfl hc hi
    · exact .pixel rfl hc hi
    · exact .stuck
  | arm =>
    rcases execArm_next h with ⟨_, hs, rfl⟩ | ⟨hf, hs, hn, rfl⟩ | rfl
    · exact .fault _ (.inr rfl) (by decide) hs
    · exact .arm rfl hf hs hn
    · exact .stuck
  | tick =>
    rcases execTick_next h with ⟨hc, rfl⟩ | ⟨_, rfl⟩
    · exact .tick rfl hc
    · exact .stuck
  | irq =>
    rcases execIrq_next h with ⟨hc, rfl⟩ | ⟨_, rfl⟩
    · exact .irq rfl hc
    · exact .stuck
  | trigger c a =>
    rcases execTrigger_next h with ⟨hc, _, ha, rfl⟩ | ⟨_, rfl⟩
    · exact .trigger c a rfl hc ha
    · exact .stuck
  | xfer =>
    rcases execXfer_next h with ⟨w, hc, hw, rfl⟩ | ⟨_, rfl⟩
    · exact .xfer w rfl hc hw
    · exact .stuck
  | genHdr =>
    rcases execGenHdr_next h with ⟨hc, rfl⟩ | ⟨_, rfl⟩
    · exact .genHdr (.inl rfl) hc
    · exact .stuck
  | genPix =>
    rcases execGenPix_next h with ⟨hc, rfl⟩ | ⟨_, rfl⟩
    · exact .genPix (.inl rfl) hc
    · exact .stuck
  | genBit =>
    rcases execGenBit_next h with ⟨hc, rfl⟩ | ⟨_, rfl⟩
    · exact .genBit (.inl rfl) hc
    · exact .stuck
  | genRst =>
    rcases execGenRst_next h with ⟨hc, rfl⟩ | ⟨_, rfl⟩
    · exact .genRst (.inl rfl) hc
    · exact .stuck
  | rdcsr n =>
    rcases execRdcsr_next h with ⟨w, _, _, rfl⟩ | ⟨_, rfl⟩ | rfl
    · exact .reply w (.inr ⟨_, rfl⟩)
    · exact .draw ⟨_, rfl⟩
    · exact .stuck
  | swap =>
    rcases execSwap_next h with ⟨hc, rfl⟩ | ⟨_, rfl⟩
    · exact .swap rfl hc
    · exact .stuck
  | wHdr c l =>
    rcases execWHdr_next h with ⟨hc, rfl⟩ | rfl
    · exact .genHdr (.inr ⟨_, _, rfl⟩) hc
    · exact .stuck
  | wPix g r b u =>
    rcases execWPix_next h with ⟨hc, rfl⟩ | rfl
    · exact .genPix (.inr ⟨_, _, _, _, rfl⟩) hc
    · exact .stuck
  | sym0 =>
    rcases execSym0_next h with ⟨hc, rfl⟩ | rfl
    · exact .genBit (.inr (.inl rfl)) hc
    · exact .stuck
  | sym1 =>
    rcases execSym1_next h with ⟨hc, rfl⟩ | rfl
    · exact .genBit (.inr (.inr rfl)) hc
    · exact .stuck
  | symRst =>
    rcases execSymRst_next h with ⟨hc, rfl⟩ | rfl
    · exact .genRst (.inr rfl) hc
    · exact .stuck

/-! ## One step of the machine -/

/-- A step that answers a next state executed the instruction its entry decodes to, in a configuration the spec gives a
meaning. -/
theorem step_next (h : step s = .next t) :
    configOk s.cfg = true ∧ ∃ i, fetchInstr s = .ok i ∧ exec i (fetched s) = .next t := by
  unfold step stepOnce at h
  cases hc : configOk s.cfg <;> simp only [hc, if_true, if_false, Bool.false_eq_true] at h
  · cases h
  · refine ⟨rfl, ?_⟩
    split at h
    · cases h
    · rename_i i hi
      exact ⟨i, hi, h⟩

end Sys2Proof.Machine
end

