-- ==== Sys2Proof/Laws/Ops.lean ====
section
/-! SUPPORT. Sys2Proof/Laws/Ops.lean: for each shared operation, once, everything it can do; and where the buffers of a
configuration the spec gives a meaning lie. -/

namespace Sys2Proof.Machine

/-! ## The shared operations -/

/-- A swap does nothing, or makes the other slot live between transfers. -/
theorem swapSlots_cases (s : State) :
    swapSlots s = s ∨
    (s.ctx.swapReq = true ∧ s.dma.busy = false ∧ s.dma.pending = false ∧
      swapSlots s =
        { s with
          ctx :=
            { s.ctx with
              cur := otherSlot s.ctx.cur
              addr := slotAddr s.cfg (otherSlot s.ctx.cur)
              swapReq := false } }) := by
  unfold swapSlots
  split
  · rename_i h
    exact .inr ⟨h.1, h.2.1, h.2.2, rfl⟩
  · exact .inl rfl

/-- The handler's second line swaps with two buffers and does nothing with one. -/
theorem handlerSwap_cases (s : State) :
    (s.cfg.buffers = .single ∧ handlerSwap s = s) ∨ (s.cfg.buffers = .double ∧ handlerSwap s = swapSlots s) := by
  unfold handlerSwap
  cases s.cfg.buffers <;> simp

/-- A trigger starts an idle engine; a busy one queues the request or drops and counts it. -/
theorem triggerEngine_cases (s : State) (addr : Addr) :
    (s.dma.busy = false ∧ triggerEngine s addr = startTransfer s addr) ∨
    (s.dma.busy = true ∧ s.cfg.busyPolicy = .queue ∧ s.dma.pending = false ∧
      triggerEngine s addr = { s with dma := { s.dma with pending := true, pendAddr := addr } }) ∨
    (s.dma.busy = true ∧ (s.cfg.busyPolicy = .drop ∨ s.dma.pending = true) ∧
      triggerEngine s addr = dropTrigger s) := by
  unfold triggerEngine
  cases s.dma.busy <;> cases s.cfg.busyPolicy <;> cases s.dma.pending <;> simp

/-- A moved word is not the last, or ends the transfer, or ends it and starts the queued one. -/
theorem moveWord_cases (s : State) (w : Word) :
    (s.dma.remaining - 1 ≠ 0 ∧ moveWord s w = deliverWord s w) ∨
    (s.dma.remaining - 1 = 0 ∧ (s.cfg.busyPolicy = .drop ∨ s.dma.pending = false) ∧
      moveWord s w =
        { deliverWord s w with dma := { (deliverWord s w).dma with busy := false } }) ∨
    (s.dma.remaining - 1 = 0 ∧ s.cfg.busyPolicy = .queue ∧ s.dma.pending = true ∧
      moveWord s w =
        { deliverWord s w with
          dma :=
            { (deliverWord s w).dma with
              raddr := s.dma.pendAddr
              remaining := frameWords s.cfg
              pending := false } }) := by
  unfold moveWord
  split
  · rename_i h
    right
    unfold completeTransfer
    split
    · rename_i hq
      exact .inr ⟨h, hq.1, hq.2, rfl⟩
    · rename_i hq
      refine .inl ⟨h, ?_, rfl⟩
      cases hp : s.cfg.busyPolicy
      · exact .inl rfl
      · cases hd : s.dma.pending
        · exact .inr rfl
        · exact absurd ⟨hp, hd⟩ hq
  · rename_i h
    exact .inl ⟨h, rfl⟩

/-- A header is taken from a queue that has one; only the queue, the count and the phase change. -/
theorem takeHeader_cases (s : State) :
    (s.gen.inq = [] ∧ takeHeader s = s) ∨
    ∃ w rest, s.gen.inq = w :: rest ∧
      takeHeader s =
        { s with gen := { s.gen with inq := rest, bitsLeft := (headerCount w).setWidth 25 + 1, phase := .pix } } := by
  unfold takeHeader
  split
  · rename_i h
    exact .inl ⟨h, rfl⟩
  · rename_i w rest h
    exact .inr ⟨w, rest, h, rfl⟩

/-- A colour word is taken from a queue that has one; only the queue, the shift register and the phase change. -/
theorem takeColour_cases (s : State) :
    (s.gen.inq = [] ∧ takeColour s = s) ∨
    ∃ w rest, s.gen.inq = w :: rest ∧
      takeColour s = { s with gen := { s.gen with inq := rest, osr := w, osrCnt := 24, phase := .bit } } := by
  unfold takeColour
  split
  · rename_i h
    exact .inl ⟨h, rfl⟩
  · rename_i w rest h
    exact .inr ⟨w, rest, h, rfl⟩

/-- Where the phase turns after a bit (rule R183), in natural numbers. -/
theorem phaseAfterBit_cases (bitsLeft : BitVec 25) (osrCnt : BitVec 5) :
    (bitsLeft.toNat = 0 ∧ phaseAfterBit bitsLeft osrCnt = .rst) ∨
    (bitsLeft.toNat ≠ 0 ∧ osrCnt.toNat = 0 ∧ phaseAfterBit bitsLeft osrCnt = .pix) ∨
    (bitsLeft.toNat ≠ 0 ∧ osrCnt.toNat ≠ 0 ∧ phaseAfterBit bitsLeft osrCnt = .bit) := by
  have zero : ∀ {w : Nat} (x : BitVec w), x = 0 ↔ x.toNat = 0 := fun x => by
    rw [← BitVec.toNat_inj]; simp
  unfold phaseAfterBit
  by_cases h : bitsLeft = 0
  · exact .inl ⟨(zero _).mp h, if_pos h⟩
  · have h' := fun e => h ((zero bitsLeft).mpr e)
    by_cases h2 : osrCnt = 0
    · exact .inr (.inl ⟨h', (zero _).mp h2, by rw [if_neg h, if_pos h2]⟩)
    · exact .inr (.inr ⟨h', fun e => h2 ((zero osrCnt).mpr e), by rw [if_neg h, if_neg h2]⟩)

/-- Instructions one list after another. -/
theorem runInstrs_append (first rest : List Instr) (s t : State) (h : runInstrs first s = .next t) :
    runInstrs (first ++ rest) s = runInstrs rest t := by
  induction first generalizing s with
  | nil => cases h; rfl
  | cons i first ih =>
    simp only [List.cons_append, runInstrs] at *
    cases he : exec i s with
    | next u => rw [he] at h; exact ih u h
    | fault r => rw [he] at h; cases h
    | refused r => rw [he] at h; cases h

/-! ## The buffers of a configuration (rules R8, R60, R64, R67) -/

/-- `N + 1` fits the 20-bit registers. -/
theorem frameWords_toNat (c : Config) (h : configOk c = true) : (frameWords c).toNat = c.n + 1 := by
  unfold configOk at h
  simp only [Bool.and_eq_true, decide_eq_true_eq] at h
  unfold frameWords
  rw [BitVec.toNat_ofNat]
  omega

/-- A buffer is word-aligned and does not run past the top of the address space. -/
theorem isBuffer_ok (c : Config) (a : Addr) (h : configOk c = true) (hb : IsBuffer c a) :
    a.toNat % 4 = 0 ∧ a.toNat + 4 * (c.n + 1) ≤ 2 ^ 32 := by
  unfold configOk bufferOk at h
  simp only [Bool.and_eq_true, decide_eq_true_eq, beq_iff_eq] at h
  rcases hb with rfl | ⟨hd, rfl⟩
  · exact h.1.2
  · simp only [hd, Bool.and_eq_true, decide_eq_true_eq, beq_iff_eq] at h
    exact h.2.1

/-- The two buffers do not overlap. -/
theorem buffers_apart (c : Config) (h : configOk c = true) (hd : c.buffers = .double) :
    c.bufAddr.toNat + 4 * (c.n + 1) ≤ c.bufAddr2.toNat ∨ c.bufAddr2.toNat + 4 * (c.n + 1) ≤ c.bufAddr.toNat := by
  unfold configOk buffersApart at h
  simp only [hd, Bool.and_eq_true, decide_eq_true_eq, Bool.or_eq_true] at h
  exact h.2.2

/-- Word `k` of a buffer stands `4k` bytes above word 0, without wrapping. -/
theorem wordAddr_toNat (c : Config) (a : Addr) (k : Nat) (h : configOk c = true) (hb : IsBuffer c a) (hk : k ≤ c.n) :
    (wordAddr a k).toNat = a.toNat + 4 * k := by
  have := isBuffer_ok c a h hb
  unfold wordAddr
  rw [BitVec.toNat_add, BitVec.toNat_ofNat]
  omega

/-- Word 0 of a buffer stands at its address. -/
theorem wordAddr_zero (b : Addr) : wordAddr b 0 = b := by simp [wordAddr]

/-- A slot is a buffer, slot 1 with two buffers only. -/
theorem isBuffer_slotAddr (c : Config) (sl : Slot) (hs : c.buffers = .single → sl = .zero) :
    IsBuffer c (slotAddr c sl) := by
  cases sl
  · exact .inl rfl
  · cases hb : c.buffers
    · exact absurd (hs hb) (by decide)
    · exact .inr ⟨hb, rfl⟩

/-- A build goes into a buffer. -/
theorem isBuffer_buildBase (c : Config) (cur : Slot) : IsBuffer c (buildBase c cur) := by
  unfold buildBase
  cases hb : c.buffers
  · exact .inl rfl
  · exact isBuffer_slotAddr c _ (by rw [hb]; intro h; cases h)

/-! ## The two readings of `INIT`, the wide channel identifier -/

@[simp] theorem swapAtInit_clears (ctx : Ctx) : swapAtInit .clears ctx = false := rfl
@[simp] theorem swapAtInit_keeps (ctx : Ctx) : swapAtInit .keeps ctx = (ctx.swapReq && decide (ctx.cur = .zero)) := rfl

/-- A channel identifier of 32 bits reads as itself. -/
theorem csrCtxChan_of_lt {s : State} (h : s.ctx.chan < 2 ^ 32) : csrCtxChan s = BitVec.ofNat 32 s.ctx.chan := if_pos h

/-! ## Observation -/

@[simp] theorem observe_out (s : State) : (observe s).out = observedOut s := rfl
@[simp] theorem observe_state (s : State) : (observe s).state = s.sys.state := rfl
@[simp] theorem observe_dropped (s : State) : (observe s).dropped = s.sch.dropped := rfl

/-- One more symbol, where there are no start times. -/
theorem withStarts_append_none (syms : List LineSymbol) (sym : LineSymbol) :
    withStarts (syms ++ [sym]) [] = withStarts syms [] ++ [(sym, none)] := by
  induction syms with
  | nil => rfl
  | cons a syms ih => simp [withStarts, ih]

/-- One more symbol and its start time, where every symbol has one. -/
theorem withStarts_append_some {syms : List LineSymbol} {starts : List Nat} (h : starts.length = syms.length)
    (sym : LineSymbol) (start : Nat) :
    withStarts (syms ++ [sym]) (starts ++ [start]) = withStarts syms starts ++ [(sym, some start)] := by
  induction syms generalizing starts with
  | nil => cases starts <;> simp_all [withStarts]
  | cons a syms ih =>
    cases starts with
    | nil => simp at h
    | cons b starts => simpa [withStarts] using ih (by simpa using h)

/-! ## The output line -/

/-- In the untimed reading the line is low in every state. -/
theorem lineLevel_untimed {s : State} (h : s.cfg.timed = false) : lineLevel s = false := by simp [lineLevel, h]

/-- The line is low before the first symbol. -/
theorem lineLevel_of_out_nil {s : State} (h : s.out = []) : lineLevel s = false := by simp [lineLevel, h]

/-- The line is high for the high time of the symbol sent last, counted from its start. -/
theorem lineLevel_of_last {s : State} {sym : LineSymbol} {start : Nat} (ht : s.cfg.timed = true)
    (ho : s.out.getLast? = some sym) (ha : s.env.outAt.getLast? = some start) :
    lineLevel s = decide (s.env.now < start + highTime s.cfg sym) := by simp [lineLevel, ht, ho, ha]

/-! ## Time -/

/-- Time never goes back. -/
theorem now_le_timeAfter (s : State) (dt : Nat) : s.env.now ≤ timeAfter s dt := by
  unfold timeAfter; split
  · split <;> omega
  · omega

/-- Inside a word no time passes beyond the end of the bit being sent. -/
theorem timeAfter_le_genUntil {s : State} (ht : s.cfg.timed = true) (hm : midWord s = true)
    (h : s.env.now ≤ s.env.genUntil) (dt : Nat) : timeAfter s dt ≤ s.env.genUntil := by
  simp only [timeAfter, ht, hm, if_true]; omega

/-- In the untimed reading no time passes. -/
theorem timeAfter_untimed {s : State} (h : s.cfg.timed = false) (dt : Nat) : timeAfter s dt = s.env.now := by
  simp [timeAfter, h]

/-! ## Numerals -/

/-- Every finite numeral has a value, whatever the arithmetic. -/
@[simp] theorem operandValue_fin (a : Arith) (q : Rat) : operandValue a (.fin q) = some (arithLit a q) := rfl

/-- A numeral that rounds to a finite value of the arithmetic has it as its value. -/
theorem arithLit_of_inRange {a : Arith} {q : Rat} (h : inRange a (arithRound a q) = true) :
    arithLit a q = arithRound a q := if_pos h

@[simp] theorem arithLit_exact (q : Rat) : arithLit .exact q = q := rfl

end Sys2Proof.Machine
end

