-- ==== Sys2Proof/Laws/PerInstr.lean ====
section
/-! SUPPORT. Sys2Proof/Laws/PerInstr.lean: what every instruction's encoding starts with, one lemma per constructor. -/

namespace Sys2Proof.Laws.EncodeHead

/-- The format an instruction is encoded in and its head: an operation's first byte is a tag of rule R88's table, a frame
word is the generator's (rule R81), a symbol has one of the three numbers of rule R86. -/
def Statement (i : Instr) : Prop :=
  match encode i with
  | .op bytes => ∃ (tag : Byte) (operands : List Byte), bytes = tag :: operands ∧ tag.toNat ≤ 0x10
  | .word _ => i.agent = .gen ∧ i.wellFormed = true
  | .line code => i.agent = .gen ∧ code.toNat ≤ 2

theorem reset : Statement .reset := ⟨_, _, rfl, by decide⟩
theorem init (chanFree genFree : Bool) : Statement (.init chanFree genFree) := ⟨_, _, rfl, by decide⟩
theorem conv (h s v : Operand) : Statement (.conv h s v) := ⟨_, _, rfl, by decide⟩
theorem build (h s v : Operand) : Statement (.build h s v) := ⟨_, _, rfl, by decide⟩
theorem bldHdr : Statement .bldHdr := ⟨_, _, rfl, by decide⟩
theorem bldPix : Statement .bldPix := ⟨_, _, rfl, by decide⟩
theorem arm : Statement .arm := ⟨_, _, rfl, by decide⟩
theorem tick : Statement .tick := ⟨_, _, rfl, by decide⟩
theorem irq : Statement .irq := ⟨_, _, rfl, by decide⟩
theorem trigger (chan : Nat) (addr : Addr) : Statement (.trigger chan addr) := ⟨_, _, rfl, by decide⟩
theorem xfer : Statement .xfer := ⟨_, _, rfl, by decide⟩
theorem genHdr : Statement .genHdr := ⟨_, _, rfl, by decide⟩
theorem genPix : Statement .genPix := ⟨_, _, rfl, by decide⟩
theorem genBit : Statement .genBit := ⟨_, _, rfl, by decide⟩
theorem genRst : Statement .genRst := ⟨_, _, rfl, by decide⟩
theorem rdcsr (n : Nat) : Statement (.rdcsr n) := ⟨_, _, rfl, by decide⟩
theorem swap : Statement .swap := ⟨_, _, rfl, by decide⟩
theorem wHdr (count : BitVec 24) (low : Byte) : Statement (.wHdr count low) := ⟨rfl, rfl⟩
theorem wPix (g r b unused : Byte) : Statement (.wPix g r b unused) := ⟨rfl, rfl⟩
theorem sym0 : Statement .sym0 := ⟨rfl, by decide⟩
theorem sym1 : Statement .sym1 := ⟨rfl, by decide⟩
theorem symRst : Statement .symRst := ⟨rfl, by decide⟩

end Sys2Proof.Laws.EncodeHead
end

