-- ==== Sys2Proof/Tests/Slice0.lean ====
section
/-! SUPPORT. Sys2Proof/Tests/Slice0.lean: the model's own tests (expected values from 95_test_vectors.md and the rules
named), and a witness for the hypotheses of every statement. -/

namespace Sys2Proof.Tests

-- One theorem after the other: in parallel their threads would ask for more memory than a check may use.
set_option Elab.async false

open Sys2Proof.Machine

/-! ## Helpers -/

/-- An outcome that is a next state with this property. -/
def nextIs (o : Host.Outcome State Fault Refusal) (p : State → Bool) : Bool :=
  match o with
  | .next s => p s
  | .fault _ => false
  | .refused _ => false

/-- An outcome that is this refusal. -/
def refusedIs (o : Host.Outcome State Fault Refusal) (r : Refusal) : Bool :=
  match o with
  | .next _ => false
  | .fault _ => false
  | .refused r' => decide (r' = r)

/-- An outcome that is this fault. -/
def faultIs (o : Host.Outcome State Fault Refusal) (r : Fault) : Bool :=
  match o with
  | .next _ => false
  | .fault r' => decide (r' = r)
  | .refused _ => false

/-- Reset with another configuration. -/
def withCfg (f : Config → Config) : State := { State.reset with cfg := f State.reset.cfg }

/-- `READY`, with the configuration of 95_test_vectors.md section 1. -/
def ready : State :=
  { State.reset with
    sys := { state := .ready, cause := .none }
    ctx := { chan := 0, addr := 0x20000000, cur := .zero, swapReq := false }
    gen := { State.reset.gen with init := true }
    env := { State.reset.env with ctxWritten := true } }

/-- `READY` with two buffers. -/
def ready2 : State := { ready with cfg := { ready.cfg with buffers := .double } }

/-- `READY`, the policy `QUEUE`. -/
def readyQ : State := { ready with cfg := { ready.cfg with busyPolicy := .queue } }

/-- `FAILED`. -/
def failed : State := { State.reset with sys := { state := .failed, cause := .noChannel } }

/-- Armed, with or without a pending tick. -/
def armed (s : State) (pending : Bool) : State :=
  { s with sch := { s.sch with state := .armed, irqPending := pending } }

/-- A running transfer. -/
def busy (s : State) (raddr : Addr) (remaining : BitVec 20) : State :=
  { s with dma := { s.dma with busy := true, raddr := raddr, remaining := remaining } }

/-- A queued request. -/
def queued (s : State) (addr : Addr) : State := { s with dma := { s.dma with pending := true, pendAddr := addr } }

/-- A build in progress. -/
def building (s : State) (idx : BitVec 20) (cursor : Rat) : State :=
  { s with
    bld := { active := true, idx := idx, cursor := cursor, s := 1, v := 1, step := 90, base := 0x20000000 } }

/-- The generator's registers. -/
def gen (s : State) (phase : Phase) (inq : List Word) (osr : Word) (osrCnt : BitVec 5) (bits : BitVec 25) : State :=
  { s with gen := { init := true, inq := inq, phase := phase, osr := osr, osrCnt := osrCnt, bitsLeft := bits } }

/-- The timed reading at a time, the generator's step running until another. -/
def timed (s : State) (now genUntil : Nat) : State :=
  { s with cfg := { s.cfg with timed := true }, env := { s.env with now := now, genUntil := genUntil } }

/-- `N` pixels. -/
def pixels (s : State) (n : Nat) : State := { s with cfg := { s.cfg with n := n } }

/-- A schedule of one entry. -/
def scheduled (s : State) (item : Item) : State := { s with env := { s.env with sched := [{ dt := 5, item := item }] } }

/-! ## WellFormed: an ill-formed term for each check -/

theorem test_wellFormed_conv_hue : (Instr.conv .nan (.fin 1) (.fin 1)).wellFormed = false := by decide
theorem test_wellFormed_conv_sat : (Instr.conv (.fin 0) .posInf (.fin 1)).wellFormed = false := by decide
theorem test_wellFormed_conv_val : (Instr.conv (.fin 0) (.fin 1) .negInf).wellFormed = false := by decide
theorem test_wellFormed_build_hue : (Instr.build .posInf (.fin 1) (.fin 1)).wellFormed = false := by decide
theorem test_wellFormed_build_sat : (Instr.build (.fin 0) .nan (.fin 1)).wellFormed = false := by decide
theorem test_wellFormed_build_val : (Instr.build (.fin 0) (.fin 1) .nan).wellFormed = false := by decide
theorem test_wellFormed_rdcsr : (Instr.rdcsr 13).wellFormed = false ∧ (Instr.rdcsr 12).wellFormed = true := by decide
theorem test_wellFormed_trigger :
    (Instr.trigger 0 0x20000002).wellFormed = false ∧ (Instr.trigger 0 0x20000004).wellFormed = true := by decide
theorem test_wellFormed_conv : (Instr.conv (.fin (-10)) (.fin 2) (.fin 1)).wellFormed = true := by decide +kernel

/-! ## Decoding (rules R81 to R86, R88) -/

theorem test_decode_reset : decodeTableWord 8 0x00 = some .reset := by decide
theorem test_decode_init : decodeTableWord 8 0x01 = some (.init true true) := by decide
theorem test_decode_conv : decodeTableWord 8 0x02 = some (.conv (.fin 0) (.fin 0) (.fin 0)) := by decide +kernel
theorem test_decode_build : decodeTableWord 8 0x03 = some (.build (.fin 0) (.fin 0) (.fin 0)) := by decide +kernel
theorem test_decode_bldHdr : decodeTableWord 8 0x04 = some .bldHdr := by decide
theorem test_decode_bldPix : decodeTableWord 8 0x05 = some .bldPix := by decide
theorem test_decode_arm : decodeTableWord 8 0x06 = some .arm := by decide
theorem test_decode_tick : decodeTableWord 8 0x07 = some .tick := by decide
theorem test_decode_irq : decodeTableWord 8 0x08 = some .irq := by decide
theorem test_decode_trigger : decodeTableWord 8 0x09 = some (.trigger 0 0) := by decide
theorem test_decode_xfer : decodeTableWord 8 0x0A = some .xfer := by decide
theorem test_decode_genHdr : decodeTableWord 8 0x0B = some .genHdr := by decide
theorem test_decode_genPix : decodeTableWord 8 0x0C = some .genPix := by decide
theorem test_decode_genBit : decodeTableWord 8 0x0D = some .genBit := by decide
theorem test_decode_genRst : decodeTableWord 8 0x0E = some .genRst := by decide
theorem test_decode_rdcsr : decodeTableWord 8 0x0F = some (.rdcsr 0) := by decide
theorem test_decode_swap : decodeTableWord 8 0x10 = some .swap := by decide
theorem test_decode_reserved : decodeTableWord 8 0x11 = none ∧ decodeTableWord 8 0xFF = none := by decide
/-- `hdr(64)` is 0000 0000 0000 0101 1111 1111 and a zero byte: count 1535 (rule R85). -/
theorem test_decode_wHdr : decodeTableWord 32 0b00000000000001011111111100000000 = some (.wHdr 1535 0) := by decide
/-- `0x0219ABFF` is green 2, red 25, blue 0xAB, and 0xFF that is not sent (95_test_vectors.md 4.1). -/
theorem test_decode_wPix : decodeTableWord 32 0b00000010000110011010101111111111 = some (.wPix 2 25 0xAB 0xFF) := by
  decide
theorem test_decode_symbols :
    decodeTableWord 2 0 = some .sym0 ∧ decodeTableWord 2 1 = some .sym1 ∧ decodeTableWord 2 2 = some .symRst ∧
    decodeTableWord 2 3 = none := by decide
theorem test_decode_missing_operand : decodeItem .header (.op [0x0F]) = .error .operandMissing := rfl
theorem test_decode_malformed_operand : decodeItem .header (.op [0x02, 5]) = .error .operandMalformed := rfl
theorem test_decode_trailing : decodeItem .header (.op [0x04, 0]) = .error .trailingBytes := rfl

/-! ## The first step after reset -/

/-- A placed instruction is what the next step runs: `INIT`, whose effect shows. -/
theorem test_step_placed : nextIs (step (State.reset.withFetchWord 8 0x01)) (fun t => decide (t.sys.state = .ready)) = true := by
  decide +kernel
/-- A placed colour word is taken as one. -/
theorem test_step_placed_word :
    nextIs (step (State.reset.withFetchWord 32 0x0219ABFF)) (fun t => decide (t.gen.osr = 0x0219ABFF)) = true := by
  decide +kernel
/-- A placed symbol is emitted. -/
theorem test_step_placed_symbol :
    nextIs (step (State.reset.withFetchWord 2 1)) (fun t => decide (t.out = [.sym1])) = true := by
  decide +kernel

/-! ## One step of each instruction -/

/-- 95_test_vectors.md 4.8: `OUT` is empty, frame memory is unwritten, `CSR[11] = N`. -/
theorem test_reset :
    nextIs (exec .reset { ready with out := [.sym1], mem := [(0x20000000, 7)] })
      (fun t => decide (t.out = []) && decide (t.mem = []) && decide (csr t 11 = some 64)) = true := by decide +kernel
/-- I1. -/
theorem test_init :
    nextIs (exec (.init true true) State.reset)
      (fun t => decide (csr t 0 = some 1) && decide (csr t 7 = some 0x20000000) && decide (csr t 8 = some 0xC)) = true := by
  decide +kernel
/-- I4 and I3: the channel is checked first. -/
theorem test_init_faults :
    (nextIs (exec (.init false false) State.reset) (fun t => decide (csr t 0 = some 6)) &&
      nextIs (exec (.init true false) State.reset) (fun t => decide (csr t 0 = some 0xA))) = true := by decide +kernel
/-- V22 and V26. -/
theorem test_conv :
    conv .exact 45 (1 / 2) (1 / 2) = 0x6F7F3F00 ∧ conv .exact 210 (3 / 4) (1 / 5) = 0x1F0C3300 := by decide +kernel
/-- V27 and V29: the arithmetic shows. -/
theorem test_conv_arith :
    (nextIs (exec (.conv (.fin 0) (.fin (3 / 5)) (.fin 1)) (withCfg fun c => { c with arith := .f32 }))
        (fun t => decide (t.env.replies = [0x65FF6500])) &&
      nextIs (exec (.conv (.fin 12) (.fin 1) (.fin 1)) (withCfg fun c => { c with arith := .f64 }))
        (fun t => decide (t.env.replies = [0x32FF0000]))) = true := by decide +kernel
/-- Rule R120's example, `N = 4`. -/
theorem test_build :
    nextIs (exec (.build (.fin 0) (.fin 1) (.fin 1)) (pixels ready 4))
      (fun t => decide (t.bld.step = 90) && decide (csr t 10 = some 1) && decide (t.bld.base = 0x20000000)) = true := by
  decide +kernel
/-- Rule R130: with two buffers the slot that is not live, and a waiting swap is cancelled. -/
theorem test_build_two_buffers :
    nextIs (exec (.build (.fin 0) (.fin 1) (.fin 1)) { ready2 with ctx := { ready2.ctx with swapReq := true } })
      (fun t => decide (t.bld.base = 0x20001000) && decide (t.ctx.swapReq = false)) = true := by decide +kernel
/-- Rule R121's example: `N = 64` stores `0x0005FF00`, little-endian (rule R62). -/
theorem test_bldHdr :
    nextIs (exec .bldHdr (building ready 0 0))
      (fun t =>
        decide (t.mem = [(0x20000000, 0x00), (0x20000001, 0xFF), (0x20000002, 0x05), (0x20000003, 0x00)]) &&
          decide (t.bld.idx = 1)) = true := by decide +kernel
/-- B1: hue 270 is the last pixel of four, the cursor wraps to 0. -/
theorem test_bldPix_last :
    nextIs (exec .bldPix (building (pixels ready 4) 4 270))
      (fun t =>
        decide (memRead t 0x20000010 = some 0x007FFF00) && decide (t.bld.cursor = 0) && !t.bld.active &&
          decide (csr t 10 = some 0xA)) = true := by decide +kernel
/-- B1: hue 90 is not the last. -/
theorem test_bldPix :
    nextIs (exec .bldPix (building (pixels ready 4) 2 90))
      (fun t => decide (memRead t 0x20000008 = some 0xFF7F0000) && t.bld.active) = true := by decide +kernel
/-- T1. -/
theorem test_arm : nextIs (exec .arm ready) (fun t => decide (csr t 1 = some 1)) = true := by decide +kernel
/-- T2. -/
theorem test_arm_fault : nextIs (exec .arm State.reset) (fun t => decide (csr t 0 = some 0xE)) = true := by decide +kernel
/-- T4. -/
theorem test_tick : nextIs (exec .tick (armed ready false)) (fun t => decide (csr t 1 = some 3)) = true := by
  decide +kernel
/-- T7, `N = 4`, and T14: the handler moves the deadline by one period, whatever the time is. -/
theorem test_irq :
    (nextIs (exec .irq (armed (pixels ready 4) true))
        (fun t => decide (csr t 3 = some 1) && decide (csr t 4 = some 0x20000000) && decide (csr t 5 = some 5)) &&
      nextIs (exec .irq (timed (armed { ready with sch := { ready.sch with deadline := 17000000 } } true) 20000000 0))
        (fun t => decide (t.sch.deadline = 34000000))) = true := by
  decide +kernel
/-- T12. -/
theorem test_irq_swap :
    nextIs (exec .irq (armed { ready2 with ctx := { ready2.ctx with swapReq := true } } true))
      (fun t => decide (csr t 12 = some 1) && decide (t.dma.raddr = 0x20001000)) = true := by decide +kernel
/-- X1. -/
theorem test_trigger :
    nextIs (exec (.trigger 0 0x20000000) ready)
      (fun t => decide (t.dma.raddr = 0x20000000) && decide (t.dma.remaining = 65) && t.dma.busy) = true := by
  decide +kernel
/-- T11: the counter wraps. -/
theorem test_trigger_dropped :
    nextIs (exec (.trigger 0 0x20000000) (busy { ready with sch := { ready.sch with dropped := 0xFFFFFFFF } } 0 1))
      (fun t => decide (csr t 2 = some 0)) = true := by decide +kernel
/-- X2. -/
theorem test_xfer :
    nextIs (exec .xfer (memWrite (busy ready 0x20000000 65) 0x20000000 0x0005FF00))
      (fun t =>
        decide (t.gen.inq = [0x0005FF00]) && decide (t.dma.raddr = 0x20000004) && decide (t.dma.remaining = 64) &&
          !dreq t) = true := by decide +kernel
/-- X5, `N = 2`. -/
theorem test_xfer_queued :
    nextIs (exec .xfer (memWrite (queued (busy (pixels readyQ 2) 0x20000008 1) 0x20000000) 0x20000008 1))
      (fun t => decide (t.dma.raddr = 0x20000000) && decide (t.dma.remaining = 3) && !t.dma.pending && t.dma.busy) =
      true := by decide +kernel
/-- G2: the low byte is ignored. -/
theorem test_genHdr :
    nextIs (exec .genHdr (gen ready .hdr [0x000017AB] 0 0 0)) (fun t => decide (t.gen.bitsLeft = 24)) = true := by
  decide +kernel
/-- G3: 2^24 needs 25 bits. -/
theorem test_genHdr_largest :
    nextIs (exec .genHdr (gen ready .hdr [0xFFFFFF00] 0 0 0)) (fun t => decide (t.gen.bitsLeft.toNat = 16777216)) = true := by
  decide +kernel
/-- G6. -/
theorem test_genPix :
    nextIs (exec .genPix (gen ready .pix [0x00190000] 0 0 24))
      (fun t => decide (t.gen.osr = 0x00190000) && decide (t.gen.osrCnt = 24) && decide (t.gen.phase = .bit)) = true := by
  decide +kernel
/-- G8. -/
theorem test_genBit_word_end :
    nextIs (exec .genBit (gen ready .bit [] 0x80000000 1 25))
      (fun t => decide (t.out = [.sym1]) && decide (t.gen.phase = .pix) && decide (t.gen.bitsLeft = 24)) = true := by
  decide +kernel
/-- G9. -/
theorem test_genBit_frame_end :
    nextIs (exec .genBit (gen ready .bit [] 0 1 1)) (fun t => decide (t.out = [.sym0]) && decide (t.gen.phase = .rst)) =
      true := by decide +kernel
/-- G11: the early header waits. -/
theorem test_genRst :
    nextIs (exec .genRst (gen ready .rst [0x00005F00] 0 0 0))
      (fun t => decide (t.out = [.symRst]) && decide (t.gen.phase = .hdr) && decide (t.gen.inq = [0x00005F00])) = true := by
  decide +kernel
/-- I9. -/
theorem test_rdcsr :
    nextIs (exec (.rdcsr 8) (gen ready .bit [] 0 23 24)) (fun t => decide (t.env.replies = [0x0000170E])) = true := by
  decide +kernel
/-- I10. -/
theorem test_rdcsr_queue :
    nextIs (exec (.rdcsr 8) (gen ready .hdr [0] 0 0 0)) (fun t => decide (t.env.replies = [0x00010004])) = true := by
  decide +kernel
/-- T12, the swap alone, and back from slot 1 (rule R150). -/
theorem test_swap :
    nextIs (exec .swap { ready2 with ctx := { ready2.ctx with cur := .one, swapReq := true } })
      (fun t => decide (t.ctx.cur = .zero) && decide (t.ctx.addr = 0x20000000)) = true := by decide +kernel
/-- G1, as a word. -/
theorem test_wHdr :
    nextIs (exec (.wHdr 1535 0) (gen ready .hdr [0x0005FF00] 0 0 0))
      (fun t => decide (t.gen.bitsLeft = 1536) && decide (t.gen.phase = .pix)) = true := by decide +kernel
/-- A word the generator is not about to take. -/
theorem test_wPix_elsewhere :
    nextIs (exec (.wPix 0 25 0 0) (gen ready .hdr [0x00190000] 0 0 0)) (fun t => decide (t.gen.phase = .hdr)) = true := by
  decide +kernel
/-- G6, as a word. -/
theorem test_wPix :
    nextIs (exec (.wPix 0 25 0 0) (gen ready .pix [0x00190000] 0 0 24)) (fun t => decide (t.gen.phase = .bit)) = true := by
  decide +kernel
/-- G7, as a symbol. -/
theorem test_sym0 :
    nextIs (exec .sym0 (gen ready .bit [] 0x00190000 24 1536))
      (fun t => decide (t.out = [.sym0]) && decide (t.gen.osr = 0x00320000) && decide (t.gen.bitsLeft = 1535)) = true := by
  decide +kernel
/-- G8, as a symbol. -/
theorem test_sym1 :
    nextIs (exec .sym1 (gen ready .bit [] 0x80000000 1 25)) (fun t => decide (t.out = [.sym1])) = true := by
  decide +kernel
/-- G10, as a symbol. -/
theorem test_symRst :
    nextIs (exec .symRst (gen ready .rst [] 0 0 0)) (fun t => decide (t.out = [.symRst])) = true := by decide +kernel
/-- 95_test_vectors.md 4.1: headers and packing. -/
theorem test_header : header 4 = 0x00005F00 ∧ header 699050 = 0xFFFFEF00 ∧ pack 1 2 3 = 0x02010300 := by decide
/-- 95_test_vectors.md 4.1: the low byte is not sent. -/
theorem test_payload :
    (payload 0x0219ABFF).map (fun b => decide (b = .sym1)) =
      [false, false, false, false, false, false, true, false, false, false, false, true, true, false, false, true,
        true, false, true, false, true, false, true, true] := by decide
/-- Rule R185: inside a 1 bit that starts at 100 ns the line is high until 900 ns. -/
theorem test_lineLevel :
    nextIs (exec .genBit (timed (gen ready .bit [] 0x80000000 24 48) 100 100))
      (fun t => lineLevel t && lineLevel (timed t 899 1350) && !lineLevel (timed t 900 1350)) = true ∧
    nextIs (exec .genBit (gen ready .bit [] 0x80000000 24 48)) (fun t => !lineLevel t) = true := by decide
/-- Rule R8's bounds, and buffers that touch. -/
theorem test_configOk :
    configOk State.reset.cfg = true ∧ configOk { State.reset.cfg with n := 0 } = false ∧
    configOk { State.reset.cfg with n := 699050 } = true ∧ configOk { State.reset.cfg with n := 699051 } = false ∧
    configOk { State.reset.cfg with buffers := .double, n := 1023 } = true ∧
    configOk { State.reset.cfg with buffers := .double, n := 1024 } = false := by decide

/-! ## Witnesses: for every statement with hypotheses, states and operands that meet them together -/

theorem test_witness_StepRunsDecodedOperation :
    configOk (scheduled State.reset (.op [0x07])).cfg = true ∧
    (scheduled State.reset (.op [0x07])).env.sched = { dt := 5, item := .op [0x07] } :: [] ∧
    decodeItem (wordPosition (scheduled State.reset (.op [0x07])).gen.phase) (.op [0x07]) = .ok .tick :=
  ⟨by decide, rfl, rfl⟩

/-- A step inside a word, the bit being sent over at 102: the time stops there. -/
theorem test_witness_StepRunsDecodedOperation_midWord :
    let s := scheduled (timed (gen ready .bit [] 0 1 49) 100 102) (.op [0x07])
    configOk s.cfg = true ∧ s.env.sched = { dt := 5, item := .op [0x07] } :: [] ∧ s.cfg.timed = true ∧
    s.gen.phase = .bit ∧ s.gen.osrCnt ≠ 24 ∧ max s.env.now (min (s.env.now + 5) s.env.genUntil) = 102 ∧
    nextIs (step s) (fun t => t.env.now == 102) = true := by decide +kernel
/-- The second clause of the statement of the step. -/
theorem test_witness_StepRunsDecodedOperation_free :
    configOk State.reset.cfg = true ∧ State.reset.env.sched = [] := by decide
/-- Two buffers, each reading of `INIT`: the first order with either, the second with the one that keeps the swap. -/
theorem test_witness_StartInEitherOrder :
    let clears := withCfg fun c => { c with buffers := .double }
    let keeps := withCfg fun c => { c with buffers := .double, initSwap := .keeps }
    (keeps.bld.active = false ∧ keeps.sys.state = .reset ∧ keeps.cfg.initSwap = .keeps) ∧
    (configOk clears.cfg = true ∧ clears.cfg.timed = false ∧
      operandValues clears.cfg.arith (.fin 0) (.fin 1) (.fin 1) = some (0, 1, 1)) ∧
    (configOk keeps.cfg = true ∧ keeps.cfg.timed = false ∧ (keeps.cfg.buffers = .double → keeps.cfg.initSwap = .keeps) ∧
      operandValues keeps.cfg.arith (.fin 0) (.fin 1) (.fin 1) = some (0, 1, 1)) := by decide +kernel

theorem test_witness_StepRefusesBadBuffer_misaligned :
    (withCfg fun c => { c with bufAddr := 1 }).cfg.bufAddr.toNat % 4 ≠ 0 := by decide
theorem test_witness_StepRefusesBadBuffer_top :
    2 ^ 32 < (withCfg fun c => { c with bufAddr := 0xFFFFFF00 }).cfg.bufAddr.toNat + 4 * (64 + 1) := by decide
theorem test_witness_StepRefusesBadBuffer_second :
    let c := (withCfg fun c => { c with buffers := .double, bufAddr2 := 0x20000002 }).cfg
    c.buffers = .double ∧ c.bufAddr2.toNat % 4 ≠ 0 := by decide
theorem test_witness_StepRefusesBadBuffer_overlap :
    let c := (withCfg fun c => { c with buffers := .double, bufAddr2 := 0x20000100 }).cfg
    c.buffers = .double ∧ c.bufAddr.toNat < c.bufAddr2.toNat + 4 * (c.n + 1) ∧
      c.bufAddr2.toNat < c.bufAddr.toNat + 4 * (c.n + 1) := by decide

theorem test_witness_TagsNameOperations : 0x11 ≤ (0x11 : Byte).toNat ∧ 0x11 ≤ (0xFF : Byte).toNat := by decide

theorem test_witness_StoredWordReadsBack :
    (3 : Nat) < 4 ∧ (0x20000004 : Addr) ≠ 0x20000000 ∧ (0x20000004 : Addr) ≠ 0x20000000 + 1 ∧
    (0x20000004 : Addr) ≠ 0x20000000 + 2 ∧ (0x20000004 : Addr) ≠ 0x20000000 + 3 := by decide

/-- The machine after reset meets the invariant of the registers. -/
theorem test_registersOk_reset : RegistersOk State.reset := by constructor <;> decide +kernel
/-- So does a block that is ready, armed and idle. -/
theorem test_registersOk_armed : RegistersOk (armed ready false) := by constructor <;> decide +kernel
/-- So does one with a running transfer. -/
theorem test_registersOk_busy : RegistersOk (busy (armed ready false) 0x20000000 65) := by constructor <;> decide +kernel
/-- So does one with two buffers, a build and a running transfer. -/
def twoBuffersBusy : State :=
  { busy ready2 0x20000000 65 with
    bld := { active := true, idx := 0, cursor := 0, s := 1, v := 1, step := 90, base := 0x20001000 } }
/-- The same with a queued request. -/
def twoBuffersQueued : State :=
  queued { twoBuffersBusy with cfg := { twoBuffersBusy.cfg with busyPolicy := .queue } } 0x20000000
theorem test_registersOk_two : RegistersOk twoBuffersBusy := by constructor <;> decide +kernel

/-- A schedule of a `TICK`, ready and armed. -/
def tickNext : State := scheduled (armed ready false) (.op [0x07])
theorem test_witness_StepKeepsRegistersOk : RegistersOk tickNext ∧ ∃ t, step tickNext = .next t :=
  ⟨by constructor <;> decide +kernel, _, rfl⟩

theorem test_witness_InitClaimsOrFaults :
    (State.reset.bld.active = false ∧ State.reset.sys.state = .reset ∧ State.reset.cfg.initSwap = .clears) ∧
    (ready.bld.active = false ∧ ready.sys.state = .ready) ∧ (failed.bld.active = false ∧ failed.sys.state = .failed) := by
  decide

theorem test_witness_RdcsrReplies :
    (ready.bld.active = false ∧ (7 : Nat) ≤ 12 ∧ ready.env.ctxWritten = true) ∧
    (failed.bld.active = false ∧ (4 : Nat) = 4 ∧ failed.env.raddrWritten = false) ∧
    (failed.bld.active = false ∧ failed.env.ctxWritten = false) ∧ (12 : Nat) < 13 := by decide

theorem test_witness_CsrSystemAndScheduler :
    State.reset.sys.state = .reset ∧ ready.sys.state = .ready ∧ failed.sys.state = .failed ∧
    ready.sys.cause = .none ∧ failed.sys.cause = .noChannel := by decide
theorem test_witness_CsrEngineAndContext :
    ready.cfg.busyPolicy = .drop ∧ readyQ.cfg.busyPolicy = .queue ∧ ready.ctx.chan < 2 ^ 32 ∧
    2 ^ 32 ≤ { ready with ctx := { ready.ctx with chan := 2 ^ 32 } }.ctx.chan := by decide
theorem test_witness_CsrGeneratorAndBuilder :
    (gen ready .hdr [] 0 0 0).gen.phase = .hdr ∧ (gen ready .pix [] 0 0 0).gen.phase = .pix ∧
    (gen ready .bit [] 0 0 0).gen.phase = .bit ∧ (gen ready .rst [] 0 0 0).gen.phase = .rst ∧
    (gen ready .hdr [0] 0 0 0).gen.inq.length ≤ 255 ∧ ready.cfg.n ≤ 699050 ∧ ready.cfg.buffers = .single ∧
    ready2.cfg.buffers = .double := by decide

theorem test_witness_ConvReplies :
    failed.bld.active = false ∧ operandValue failed.cfg.arith (.fin 360) = some 360 ∧
    operandValue failed.cfg.arith (.fin 1) = some 1 ∧ operandValue failed.cfg.arith (.fin 0) = some 0 := by
  decide +kernel
theorem test_witness_NonFiniteRefused :
    ready.bld.active = false ∧ ready.sys.state ≠ .failed ∧ Operand.nan ∈ [Operand.fin 0, .fin 1, .nan] ∧
    Operand.nan ∈ [Operand.posInf, .negInf, .nan] ∧ |arithRound .f32 360| < 2 ^ 128 ∧ |arithRound .f64 360| < 2 ^ 1024 := by
  have single : arithRound .f32 360 = 360 := by decide +kernel
  have double : arithRound .f64 360 = 360 := by decide +kernel
  rw [single, double]
  refine ⟨by decide, by decide, by decide, by decide, by norm_num, by decide +kernel⟩
/-- The largest finite `F32` value is itself; a numeral beyond it stops nothing (log 31). -/
theorem test_numeral_beyond :
    operandValue .f32 (.fin (2 ^ 128 - 2 ^ 104)) = some (2 ^ 128 - 2 ^ 104) ∧
    (∃ t, exec (.conv (.fin (10 ^ 40)) (.fin 1) (.fin 1)) (withCfg fun c => { c with arith := .f32 }) = .next t) ∧
    (∃ t, exec (.build (.fin 0) (.fin 1) (.fin (-10 ^ 40))) (withCfg fun c => { c with arith := .f32 }) = .next t) :=
  ⟨by decide +kernel, ⟨_, rfl⟩, _, rfl⟩
theorem test_witness_ConvGrey : (0 : Rat) ≤ 1 ∧ (1 : Rat) ≤ 1 := by decide +kernel
theorem test_witness_ConvFoldsFullCircle :
    (360 : Rat) = 360 ∧ (359 : Rat) ≠ 360 ∧ (0 : Rat) ≤ 1 ∧ (1 : Rat) ≤ 1 := by decide +kernel
/-- The values the statement of the colour path names, for one hue and one saturation, and each sector's boundary. -/
theorem test_witness_ConvSectors :
    (∀ a : Arith, ∃ (hs f p q t : Rat) (byte : Rat → Byte),
      ((0 : Rat) ≤ 90 ∧ (90 : Rat) ≤ 360 ∧ (0 : Rat) < 1 ∧ (1 : Rat) ≤ 1) ∧
      hs = arithDiv a (if (90 : Rat) = 360 then 0 else 90) 60 ∧ f = arithSub a hs (hs.floor : Rat) ∧
      p = arithMul a 1 (arithSub a 1 1) ∧ q = arithMul a 1 (arithSub a 1 (arithMul a 1 f)) ∧
      t = arithMul a 1 (arithSub a 1 (arithMul a 1 (arithSub a 1 f))) ∧
      (∀ x, byte x = BitVec.ofInt 8 (arithMul a x 255).floor)) ∧
    (arithDiv .f32 0 60).floor % 6 = 0 ∧ (arithDiv .f32 60 60).floor % 6 = 1 ∧ (arithDiv .f32 120 60).floor % 6 = 2 ∧
    (arithDiv .f64 180 60).floor % 6 = 3 ∧ (arithDiv .f64 240 60).floor % 6 = 4 ∧ (arithDiv .f64 359 60).floor % 6 = 5 ∧
    (60 * ((5 : Nat) : Rat) ≤ 300 ∧ (359 : Rat) < 60 * (((5 : Nat) : Rat) + 1)) :=
  ⟨fun _ =>
      ⟨_, _, _, _, _, fun _ => _, ⟨by decide +kernel, by decide +kernel, by decide +kernel, by decide +kernel⟩, rfl, rfl,
        rfl, rfl, rfl, fun _ => rfl⟩,
    by decide +kernel, by decide +kernel, by decide +kernel, by decide +kernel, by decide +kernel, by decide +kernel,
    by decide +kernel⟩
theorem test_witness_ConvOutsideDomain :
    ((1 : Rat) ≠ 0 ∧ (360 : Rat) < 361) ∧ ((1 : Rat) ≠ 0 ∧ (-10 : Rat) < 0) ∧ (1 : Rat) < 2 ∧ (-1 : Rat) < 0 := by
  decide +kernel
theorem test_witness_ConvExtremeChannels :
    ((0 : Rat) ≤ 1 ∧ (1 : Rat) ≤ 1 ∧ (0 : Rat) ≤ 360 ∧ (360 : Rat) ≤ 360) ∧ ((0 : Rat) = 0 ∧ (0 : Rat) ≤ 1) ∧
    ∀ a : Arith, arithRound a (3 / 4) = 3 / 4 ∧ arithRound a 1 = 1 ∧ arithRound a 0 = 0 := by
  refine ⟨by decide +kernel, by decide +kernel, fun a => ?_⟩
  cases a <;> decide +kernel
/-- A tie of `F32`, between `2^24` and `2^24 + 2`: both are values of the format, and the even one is taken. -/
theorem test_witness_RoundsToNearest :
    InFormat 24 (-149) 16777218 ∧ (16777218 : Rat) ≠ arithRound .f32 16777217 ∧
    |(16777218 : Rat) - 16777217| = |arithRound .f32 16777217 - 16777217| := by
  have h : arithRound .f32 16777217 = 16777216 := by decide +kernel
  rw [h]
  exact ⟨⟨8388609, 1, by decide, by decide, by norm_num⟩, by decide +kernel, by norm_num⟩

theorem test_witness_BuildStarts :
    ((building ready 0 0).bld.active = true ∧ Instr.agent .arm = .host) ∧
    (ready.bld.active = false ∧ ready.sys.state = .ready ∧ ready.cfg.buffers = .single) ∧
    (ready2.bld.active = false ∧ ready2.cfg.buffers = .double) ∧
    (State.reset.bld.active = false ∧ State.reset.sys.state = .reset) ∧
    operandValue ready.cfg.arith (.fin 1) = some 1 := by decide +kernel
theorem test_witness_BldHdrStores :
    (building ready 0 0).sys.state ≠ .failed ∧ (building ready 0 0).bld.active = true ∧
    (building ready 0 0).bld.idx = 0 := by decide
theorem test_witness_BldPixStores :
    let s := building (pixels ready 4) 4 270
    let s1 := building (pixels ready 4) 1 0
    (s.sys.state ≠ .failed ∧ s.bld.active = true ∧ 1 ≤ s.bld.idx.toNat ∧ s.bld.idx.toNat = s.cfg.n ∧ s.cfg.n ≤ 699050 ∧
      360 ≤ arithAdd s.cfg.arith s.bld.cursor s.bld.step) ∧
    (s1.sys.state ≠ .failed ∧ s1.bld.active = true ∧ 1 ≤ s1.bld.idx.toNat ∧ s1.bld.idx.toNat < s1.cfg.n ∧
      arithAdd s1.cfg.arith s1.bld.cursor s1.bld.step < 360) := by decide +kernel
theorem test_witness_WholeBuild :
    configOk ready.cfg = true ∧ ready.bld.active = false ∧ ready.sys.state ≠ .failed ∧
    operandValues ready.cfg.arith (.fin 0) (.fin 1) (.fin 1) = some (0, 1, 1) ∧ ready.cfg.buffers = .single ∧
    ready2.cfg.buffers = .double := by decide +kernel
/-- One pixel, built from two states: reset and `READY`. -/
theorem test_witness_RebuildByteIdentical :
    let a := pixels State.reset 1
    let b := pixels ready 1
    configOk a.cfg = true ∧ b.cfg = a.cfg ∧ b.ctx.cur = a.ctx.cur ∧ a.bld.active = false ∧ b.bld.active = false ∧
    a.sys.state ≠ .failed ∧ b.sys.state ≠ .failed ∧
    (∃ t, runLine 0 (.buildAll (.fin 0) (.fin 0) (.fin 1)) a = .next t) ∧
    (∃ t, runLine 0 (.buildAll (.fin 0) (.fin 0) (.fin 1)) b = .next t) ∧
    InBuffer a.cfg.n (buildBase a.cfg a.ctx.cur) 0x20000000 := by
  refine ⟨by decide, by decide, by decide, by decide, by decide, by decide, by decide, ?_, ?_, ?_⟩
  · exact ⟨_, rfl⟩
  · exact ⟨_, rfl⟩
  · unfold InBuffer; decide
theorem test_witness_CursorWrapsOnce :
    ((1 : Nat) ≤ 2 ∧ (1 : Nat) ≤ 2 ∧ (0 : Rat) ≤ 350 ∧ (350 : Rat) < 360 ∧ (530 : Rat) = 350 + ((1 : Nat) : Rat) * (360 / ((2 : Nat) : Rat)) ∧
      (360 : Rat) ≤ 530) ∧
    ((0 : Nat) ≤ 1 ∧ (0 : Rat) = 0 + ((0 : Nat) : Rat) * (360 / ((1 : Nat) : Rat)) ∧ (0 : Rat) < 360) := by decide +kernel
theorem test_witness_HeaderKept :
    let s := memWrite (armed ready false) 0x20000000 (header 64)
    RegistersOk s ∧ IsBuffer s.cfg 0x20000000 ∧ memRead s 0x20000000 = some (header s.cfg.n) ∧ (Instr.tick ≠ .reset) ∧
    ∃ t, exec .tick s = .next t :=
  ⟨by constructor <;> decide +kernel, .inl rfl, by decide +kernel, by decide, _, rfl⟩

theorem test_witness_ArmArmsOrFaults :
    (State.reset.bld.active = false ∧ State.reset.sys.state = .reset) ∧
    ((armed ready false).sys.state = .ready ∧ (armed ready false).sch.state = .armed) ∧
    (ready.sys.state = .ready ∧ ready.sch.state = .idle ∧ ready.cfg.timed = false) ∧
    ((timed ready 0 0).sys.state = .ready ∧ (timed ready 0 0).sch.state = .idle ∧ (timed ready 0 0).cfg.timed = true) ∧
    failed.sys.state = .failed := by decide
theorem test_witness_TickRaisesRequest :
    let s := timed (armed { ready with sch := { ready.sch with deadline := 17 } } false) 17 0
    let early := timed (armed { ready with sch := { ready.sch with deadline := 17 } } false) 16 0
    (s.sys.state ≠ .failed ∧ s.sch.state = .armed ∧ s.sch.irqPending = false ∧ s.sch.deadline ≤ s.env.now) ∧
    (early.cfg.timed = true ∧ early.env.now < early.sch.deadline) ∧ ready.sch.state = .idle ∧
    (armed ready true).sch.irqPending = true := by decide
theorem test_witness_IrqHandlesTick :
    let s := armed ready true
    let swap := armed { ready2 with ctx := { ready2.ctx with swapReq := true } } true
    (s.sys.state ≠ .failed ∧ s.sch.irqPending = true ∧ s.cfg.buffers = .single ∧ s.dma.busy = false) ∧
    (swap.cfg.buffers = .double ∧ swap.ctx.swapReq = true ∧ swap.dma.busy = false ∧ swap.dma.pending = false) ∧
    ((busy s 0 1).dma.busy = true ∧ (busy s 0 1).cfg.busyPolicy = .drop) ∧
    ((busy (armed readyQ true) 0 1).cfg.busyPolicy = .queue ∧ (busy (armed readyQ true) 0 1).dma.pending = false) ∧
    (queued (busy (armed readyQ true) 0 1) 0).dma.pending = true := by decide
theorem test_witness_SwapMakesSlotLive :
    let s := { ready2 with ctx := { ready2.ctx with swapReq := true } }
    let one := { ready2 with ctx := { ready2.ctx with cur := .one, swapReq := true } }
    (s.sys.state ≠ .failed ∧ s.cfg.buffers = .double ∧ s.ctx.swapReq = true ∧ s.dma.busy = false ∧ s.dma.pending = false ∧
      s.ctx.cur = .zero) ∧
    one.ctx.cur = .one ∧ ready.cfg.buffers = .single ∧ ready2.ctx.swapReq = false ∧ (busy s 0 1).dma.busy = true := by
  decide
theorem test_witness_TimerNeverDisarmed :
    (∃ t, exec .irq (armed ready true) = .next t) ∧ Instr.irq ≠ .reset ∧ (armed ready true).sch.state = .armed ∧
    (∃ t, exec .arm ready = .next t ∧ t.sch.state = .armed) ∧ ready.sch.state = .idle :=
  ⟨⟨_, rfl⟩, by decide, by decide, ⟨_, rfl, by decide⟩, by decide⟩
theorem test_witness_DroppedCountsDiscardedTriggers :
    (∃ t, exec .irq (busy (armed ready true) 0 1) = .next t ∧ t.sch.dropped ≠ (busy (armed ready true) 0 1).sch.dropped) ∧
    (busy (armed ready true) 0 1).sch.irqPending = true ∧ (busy (armed ready true) 0 1).sys.state ≠ .failed ∧
    (busy (armed ready true) 0 1).dma.busy = true ∧ (busy (armed ready true) 0 1).cfg.busyPolicy = .drop ∧
    (∃ t, exec (.trigger 0 0x20000000) (busy ready 0 1) = .next t) ∧ (busy ready 0 1).sys.state = .ready :=
  ⟨⟨_, rfl, by decide⟩, by decide, by decide, by decide, by decide, ⟨_, rfl⟩, by decide⟩

theorem test_witness_TriggerStartsDropsOrQueues :
    (ready.sys.state = .ready ∧ (0x20000000 : Addr).toNat % 4 = 0 ∧ ready.dma.busy = false) ∧
    ((busy ready 0 1).dma.busy = true ∧ (busy ready 0 1).cfg.busyPolicy = .drop) ∧
    ((busy readyQ 0 1).cfg.busyPolicy = .queue ∧ (busy readyQ 0 1).dma.pending = false) ∧
    (queued (busy readyQ 0 1) 0).dma.pending = true ∧ ready.cfg.n ≤ 699050 := by decide
theorem test_witness_TriggerRefusesForeignChannel :
    ready.sys.state = .ready ∧ (1 : Nat) ≠ ready.ctx.chan ∧ (0 : Nat) = ready.ctx.chan ∧ (0x20000002 : Addr).toNat % 4 ≠ 0 := by
  decide
theorem test_witness_XferMovesOneWord :
    let s := memWrite (busy ready 0x20000000 65) 0x20000000 0x0005FF00
    let last := memWrite (busy ready 0x20000100 1) 0x20000100 0
    let next := memWrite (queued (busy readyQ 0x20000100 1) 0x20000000) 0x20000100 0
    (s.sys.state ≠ .failed ∧ s.dma.busy = true ∧ s.gen.init = true ∧ s.gen.inq.length < s.cfg.inDepth ∧
      memRead s s.dma.raddr = some 0x0005FF00 ∧ s.dma.remaining ≠ 1) ∧
    (memRead last last.dma.raddr = some 0 ∧ last.dma.remaining = 1 ∧ last.cfg.busyPolicy = .drop) ∧
    (memRead next next.dma.raddr = some 0 ∧ next.dma.remaining = 1 ∧ next.cfg.busyPolicy = .queue ∧
      next.dma.pending = true) ∧
    ready.dma.busy = false ∧ State.reset.gen.init = false ∧
    (gen ready .hdr [0] 0 0 0).cfg.inDepth ≤ (gen ready .hdr [0] 0 0 0).gen.inq.length := by decide +kernel
theorem test_witness_UnwrittenWordStopsOrIsDrawn :
    let s := busy ready 0x20000000 65
    (s.cfg.unwritten = .stop ∧ s.sys.state ≠ .failed ∧ s.dma.busy = true ∧ s.gen.init = true ∧
      s.gen.inq.length < s.cfg.inDepth ∧ (3 : Nat) < 4 ∧ lookupByte s.mem (s.dma.raddr + BitVec.ofNat 32 3).toNat = none) ∧
    (withCfg fun c => { c with unwritten := .draw }).cfg.unwritten = .draw := by decide
theorem test_witness_OnlyTriggersStartTheEngine :
    (∃ t, exec .irq (armed ready true) = .next t ∧ t.dma.busy = true) ∧ (armed ready true).dma.busy = false :=
  ⟨⟨_, rfl, by decide⟩, by decide⟩

theorem test_witness_HeaderTaken :
    let s := gen ready .hdr [0x0005FF00] 0 0 0
    let t := timed (gen ready .hdr [0x0005FF00] 0 0 0) 7 7
    (s.sys.state ≠ .failed ∧ s.cfg.timed = false ∧ s.gen.phase = .hdr ∧
      s.gen.inq = ((1535 : BitVec 24) ++ (0 : Byte)) :: []) ∧
    (t.cfg.timed = true ∧ t.env.genUntil ≤ t.env.now) ∧ ready.gen.inq = [] ∧ (gen ready .rst [0] 0 0 0).gen.phase ≠ .hdr := by
  decide
theorem test_witness_ColourTaken :
    let s := gen ready .pix [0x0219ABFF] 0 0 24
    let t := timed s 100 100
    (s.sys.state ≠ .failed ∧ s.cfg.timed = false ∧ s.gen.phase = .pix ∧ s.gen.inq = 0x0219ABFF :: []) ∧
    (t.cfg.timed = true ∧ t.env.genUntil ≤ t.env.now) ∧
    (gen ready .pix [] 0 0 24).gen.inq = [] ∧ ready.gen.phase ≠ .pix := by decide
/-- The three turns of the phase, for a 1 and a 0. -/
theorem test_witness_BitSent :
    let stay := gen ready .bit [] 0x80000000 24 48
    let word := gen ready .bit [] 0 1 25
    let frame := gen ready .bit [] 0 1 1
    (stay.sys.state ≠ .failed ∧ stay.cfg.timed = false ∧ stay.gen.phase = .bit ∧ stay.gen.osr.getLsbD 31 = true ∧
      stay.gen.bitsLeft ≠ 1 ∧ stay.gen.osrCnt ≠ 1) ∧
    (word.gen.osr.getLsbD 31 = false ∧ word.gen.bitsLeft ≠ 1 ∧ word.gen.osrCnt = 1) ∧ frame.gen.bitsLeft = 1 ∧
    ready.gen.phase ≠ .bit := by decide
/-- A 1 and a 0, the three turns of the phase, and a bit that follows one of its word. -/
theorem test_witness_BitTimed :
    let first := timed (gen ready .bit [] 0x80000000 24 48) 100 90
    let later := timed (gen ready .bit [] 0 1 47) 100 100
    let last := timed (gen ready .bit [] 0 1 1) 100 100
    (first.sys.state ≠ .failed ∧ first.cfg.timed = true ∧ first.env.genUntil ≤ first.env.now ∧ first.gen.phase = .bit ∧
      first.gen.osr.getLsbD 31 = true ∧ first.gen.bitsLeft ≠ 1 ∧ first.gen.osrCnt ≠ 1) ∧
    (later.env.genUntil ≤ later.env.now ∧ later.gen.osr.getLsbD 31 = false ∧ later.gen.bitsLeft ≠ 1 ∧
      later.gen.osrCnt = 1 ∧ later.gen.osrCnt ≠ 24) ∧
    last.gen.bitsLeft = 1 := by decide
/-- The clause of the bit without a gap: inside a word, and the bit before it just over. -/
theorem test_witness_BitTimed_gapFree :
    let s := timed (gen ready .bit [] 0 1 49) 0 0
    RegistersOk s ∧ s.sys.state ≠ .failed ∧ s.cfg.timed = true ∧ s.env.genUntil ≤ s.env.now ∧ s.gen.phase = .bit ∧
      s.gen.osr.getLsbD 31 = false ∧ s.gen.bitsLeft ≠ 1 ∧ s.gen.osrCnt = 1 ∧ s.gen.osrCnt ≠ 24 :=
  ⟨by constructor <;> decide +kernel, by decide, by decide, by decide, by decide, by decide, by decide, by decide,
    by decide⟩
theorem test_witness_ResetIntervalSent :
    let s := gen ready .rst [] 0 0 0
    let t := timed (gen ready .rst [] 0 0 0) 100 100
    (s.sys.state ≠ .failed ∧ s.cfg.timed = false ∧ s.gen.phase = .rst) ∧
    (t.cfg.timed = true ∧ t.env.genUntil ≤ t.env.now ∧ t.gen.phase = .rst) ∧ ready.gen.phase ≠ .rst := by decide
theorem test_witness_PayloadMostSignificantFirst :
    let s := gen ready .bit [] 0x0219ABFF 24 24
    let more := gen ready .bit [] 0x0219ABFF 24 48
    (s.sys.state ≠ .failed ∧ s.cfg.timed = false ∧ s.gen.phase = .bit ∧ s.gen.osr = 0x0219ABFF ∧ s.gen.osrCnt = 24 ∧
      24 ≤ s.gen.bitsLeft.toNat ∧ s.gen.bitsLeft.toNat = 24) ∧ 24 < more.gen.bitsLeft.toNat := by decide
theorem test_witness_LowByteIgnored :
    (ready.sys.state ≠ .failed ∧ ready.cfg.timed = false) ∧
    ((timed ready 7 7).cfg.timed = true ∧ (timed ready 7 7).env.genUntil ≤ (timed ready 7 7).env.now) := by decide
/-- A bit and a reset interval, and both readings. -/
theorem test_witness_OutAppendOnly :
    (∃ t, exec .genBit (gen ready .bit [] 0 24 24) = .next t) ∧ (∃ t, exec .genRst (gen ready .rst [] 0 0 0) = .next t) ∧
    Instr.genBit ≠ .reset ∧ ready.cfg.timed = false ∧
    ((timed ready 7 7).cfg.timed = true ∧ (timed ready 7 7).env.outAt.length = (timed ready 7 7).out.length) :=
  ⟨⟨_, rfl⟩, ⟨_, rfl⟩, by decide, by decide, by decide⟩

theorem test_witness_RegisterWriters : (∃ t, exec .tick (armed ready false) = .next t) ∧ Instr.tick ≠ .reset :=
  ⟨⟨_, rfl⟩, by decide⟩
theorem test_witness_TransfersStayOnLiveSlot :
    RegistersOk (busy (armed ready false) 0x20000000 65) ∧ ReadsLiveSlot (busy (armed ready false) 0x20000000 65) ∧
    (∃ t, exec .tick (busy (armed ready false) 0x20000000 65) = .next t) ∧
    (∀ chan addr, Instr.tick = .trigger chan addr → addr = (busy (armed ready false) 0x20000000 65).ctx.addr) :=
  ⟨test_registersOk_busy, ⟨by decide, by decide⟩, ⟨_, rfl⟩, fun _ _ h => by cases h⟩
theorem test_witness_NoTearWithTwoBuffers :
    RegistersOk twoBuffersBusy ∧ twoBuffersBusy.cfg.buffers = .double ∧ twoBuffersBusy.sys.state = .ready ∧
    Instr.bldHdr ≠ .reset ∧ (∃ t, exec .bldHdr twoBuffersBusy = .next t) ∧ (64 : Nat) ≤ twoBuffersBusy.cfg.n ∧
    ReadsLiveSlot twoBuffersBusy ∧ (twoBuffersBusy.dma.busy = true ∧ 64 < twoBuffersBusy.dma.remaining.toNat) ∧
    (RegistersOk twoBuffersQueued ∧ ReadsLiveSlot twoBuffersQueued ∧ twoBuffersQueued.dma.pending = true) :=
  ⟨test_registersOk_two, by decide, by decide, by decide, ⟨_, rfl⟩, by decide, ⟨by decide, by decide⟩, by decide,
    by constructor <;> decide +kernel, ⟨by decide, by decide⟩, by decide⟩
/-- Ready, the header stored, nothing running. -/
def headerStored : State := memWrite ready 0x20000000 (header 64)
theorem test_inStep_headerStored : InStep headerStored where
  wholeWords := fun h => absurd h (by decide)
  partWord := fun h => absurd h (by decide)
  count := by decide
  headers := by intro j w h; simp [headerStored, ready, State.reset, State.resetWith, memWrite] at h
  running := fun h => absurd h (by decide)
  queued := fun h => absurd h (by decide)
  ticking := fun h => absurd h (by decide)
  swapping := by decide
  building := by decide
/-- Two buffers, the header stored in slot 1 and its swap waiting; nothing is stored in the live slot. -/
def slotOneBuilt : State :=
  memWrite { ready2 with ctx := { ready2.ctx with swapReq := true } } 0x20001000 (header 64)
theorem test_inStep_slotOneBuilt : InStep slotOneBuilt where
  wholeWords := fun h => absurd h (by decide)
  partWord := fun h => absurd h (by decide)
  count := by decide
  headers := by intro j w h; simp [slotOneBuilt, ready2, ready, State.reset, State.resetWith, memWrite] at h
  running := fun h => absurd h (by decide)
  queued := fun h => absurd h (by decide)
  ticking := fun h => absurd h (by decide)
  swapping := by intro _; decide +kernel
  building := by decide
/-- A start with one buffer, one with two (the live slot holds nothing), and a rebuild while armed. -/
theorem test_witness_GeneratorStaysInStep :
    (RegistersOk headerStored ∧ InStep headerStored ∧ (∃ t, exec .arm headerStored = .next t) ∧
      (∀ chan addr, Instr.arm ≠ .trigger chan addr) ∧ HeaderAwaits headerStored) ∧
    (RegistersOk slotOneBuilt ∧ InStep slotOneBuilt ∧ (∃ t, exec .arm slotOneBuilt = .next t) ∧
      memRead slotOneBuilt slotOneBuilt.ctx.addr = none ∧ HeaderAwaits slotOneBuilt) ∧
    ((∃ t, exec (.build (.fin 0) (.fin 1) (.fin 1)) (armed headerStored false) = .next t) ∧
      (armed headerStored false).sch.state = .armed ∧
      HeaderOrNothing (armed headerStored false) (armed headerStored false).ctx.addr) :=
  ⟨⟨by constructor <;> decide +kernel, test_inStep_headerStored, ⟨_, rfl⟩, (fun _ _ h => by cases h),
      .inl (.inl (by decide +kernel))⟩,
    ⟨by constructor <;> decide +kernel, test_inStep_slotOneBuilt, ⟨_, rfl⟩, by decide +kernel,
      .inr (by decide)⟩,
    ⟨_, rfl⟩, by decide, .inl (by decide +kernel)⟩
theorem test_witness_FailedIsTerminal :
    ((∃ t, exec .tick failed = .next t) ∧ failed.sys.state = .failed ∧ Instr.tick ≠ .reset) ∧
    (∃ t, exec .arm State.reset = .next t ∧ t.sys.state = .failed) ∧ State.reset.sys.state ≠ .failed :=
  ⟨⟨⟨_, rfl⟩, by decide, by decide⟩, ⟨_, rfl, by decide⟩, by decide⟩
theorem test_witness_FaultTable :
    (∃ t, exec (.init false true) State.reset = .next t ∧ t.sys.cause = .noChannel) ∧
    (∃ t, exec (.init true false) State.reset = .next t ∧ t.sys.cause = .noGenerator) ∧
    (∃ t, exec .arm State.reset = .next t ∧ t.sys.cause = .genNotInit) ∧ State.reset.sys.state ≠ .failed :=
  ⟨⟨_, rfl, by decide⟩, ⟨_, rfl, by decide⟩, ⟨_, rfl, by decide⟩, by decide⟩
theorem test_witness_DisabledDoesNothing :
    enabled ready .tick = false ∧ (∀ c g, Instr.tick = .init c g → ready.sys.state ≠ .ready) ∧
    enabled failed (.init true true) = false ∧ failed.sys.state ≠ .ready :=
  ⟨by decide, (fun _ _ h => by cases h), by decide, by decide⟩
theorem test_witness_NoHang :
    RegistersOk (busy (armed ready false) 0x20000000 65) ∧ (busy (armed ready false) 0x20000000 65).cfg.timed = false ∧
    (busy (armed ready false) 0x20000000 65).sys.state ≠ .failed ∧
    (busy (armed ready false) 0x20000000 65).sch.state = .armed ∧ (busy (armed ready false) 0x20000000 65).dma.busy = true ∧
    (RegistersOk twoBuffersBusy ∧ twoBuffersBusy.bld.active = true) ∧
    (RegistersOk (gen ready .hdr [0] 0 0 0) ∧ (gen ready .hdr [0] 0 0 0).gen.inq ≠ []) :=
  ⟨test_registersOk_busy, by decide, by decide, by decide, by decide, ⟨test_registersOk_two, by decide⟩,
    ⟨by constructor <;> decide +kernel, by decide⟩⟩
/-- One pixel, built and armed. -/
def oneFrame : State := memWrite (memWrite (armed (pixels ready 1) false) 0x20000000 (header 1)) 0x20000004 0xFFFFFF00
theorem test_witness_FrameSendsSerialImage :
    RegistersOk oneFrame ∧ FrameBoundary oneFrame ∧ oneFrame.cfg.timed = false ∧ oneFrame.sch.state = .armed ∧
    oneFrame.sch.irqPending = false ∧ oneFrame.ctx.swapReq = false ∧ [(0xFFFFFF00 : Word)].length = oneFrame.cfg.n ∧
    memRead oneFrame oneFrame.ctx.addr = some (header oneFrame.cfg.n) ∧
    (∀ (k : Nat) (w : Word), [(0xFFFFFF00 : Word)][k]? = some w → memRead oneFrame (wordAddr oneFrame.ctx.addr (k + 1)) = some w) ∧
    26 * oneFrame.cfg.n + 3 ≤ 29 := by
  refine ⟨by constructor <;> decide +kernel, ⟨by decide, by decide, by decide, by decide⟩, by decide, by decide,
    by decide, by decide, by decide, by decide +kernel, ?_, by decide⟩
  intro k w h
  rcases k with _ | k
  · simp only [List.getElem?_cons_zero, Option.some.injEq] at h
    subst h
    decide +kernel
  · simp at h

theorem test_witness_WordsAndSymbolsAreGeneratorSteps :
    let h := timed (gen ready .hdr [0x0005FF00] 0 0 0) 5 5
    let p := gen ready .pix [0x0219ABFF] 0 0 24
    (h.sys.state ≠ .failed ∧ h.cfg.timed = true ∧ h.env.genUntil ≤ h.env.now ∧ h.gen.phase = .hdr ∧
      h.gen.inq = ((1535 : BitVec 24) ++ (0 : Byte)) :: []) ∧
    (p.sys.state ≠ .failed ∧ p.cfg.timed = false ∧ p.gen.phase = .pix ∧
      p.gen.inq = ((2 : Byte) ++ (25 : Byte) ++ (0xAB : Byte) ++ (0xFF : Byte)) :: []) ∧
    ((gen ready .bit [] 0 24 24).gen.phase = .bit ∧ (gen ready .bit [] 0 24 24).gen.osr.getLsbD 31 = false) ∧
    (gen ready .bit [] 0x80000000 24 24).gen.osr.getLsbD 31 = true ∧ (gen ready .rst [] 0 0 0).gen.phase = .rst := by
  decide

end Sys2Proof.Tests
end

section
/-! Sys2Proof/Proofs/Csr: the registers of rules R41 to R43 and R48 to R51, field by field (O14, O16).

Each of these registers is an `|||` of fields, a field being a value of `n` bits moved up to its lowest bit. Two facts
about fields (their own bits give the value back, all other bits are 0) and one equation per register settle both. -/

namespace Sys2Proof.Machine

/-! ## Fields of a register -/

/-- A value of `n` bits as a field of a 32-bit register, its lowest bit at `k` (rule R9). -/
def fieldAt {n : Nat} (k : Nat) (x : BitVec n) : Word := x.setWidth 32 <<< k

theorem getLsbD_fieldAt {n : Nat} (k : Nat) (x : BitVec n) (i : Nat) :
    (fieldAt k x).getLsbD i = (decide (i < 32) && decide (k ≤ i) && x.getLsbD (i - k)) := by
  simp only [fieldAt, BitVec.getLsbD_shiftLeft, BitVec.getLsbD_setWidth, ← decide_not, Nat.not_lt]
  by_cases hi : i < 32
  · have hlow : i - k < 32 := by omega
    simp [hi, hlow]
  · simp [hi]

@[simp] theorem getElem_fieldAt {n : Nat} (k : Nat) (x : BitVec n) (i : Nat) (hi : i < 32) :
    (fieldAt k x)[i] = (decide (k ≤ i) && x.getLsbD (i - k)) := by
  rw [← BitVec.getLsbD_eq_getElem, getLsbD_fieldAt]
  simp [hi]

/-- Reading the bits of a field gives its value back. -/
@[simp] theorem extractLsb'_fieldAt_same {n k : Nat} (x : BitVec n) (h : k + n ≤ 32) :
    (fieldAt k x).extractLsb' k n = x := by
  ext i hi
  have hword : k + i < 32 := by omega
  rw [BitVec.getElem_extractLsb', getLsbD_fieldAt]
  simp [hword, hi]

/-- Bits wholly below or wholly above a field are 0. -/
@[simp] theorem extractLsb'_fieldAt_apart {n k lo len : Nat} (x : BitVec n) (h : lo + len ≤ k ∨ k + n ≤ lo) :
    (fieldAt k x).extractLsb' lo len = 0 := by
  ext i hi
  rw [BitVec.getElem_extractLsb', getLsbD_fieldAt]
  rcases h with hbelow | habove
  · have hk : ¬ k ≤ lo + i := by omega
    simp [hk]
  · have hn : n ≤ lo + i - k := by omega
    simp [BitVec.getLsbD_of_ge x _ hn]

/-! ## The codes of the model as fields -/

theorem setWidth_eq_fieldAt {n : Nat} (x : BitVec n) : x.setWidth 32 = fieldAt 0 x := by simp [fieldAt]

theorem bitWord_eq_fieldAt (b : Bool) : bitWord b = fieldAt 0 (BitVec.ofBool b) := by cases b <;> rfl

theorem bitWord_shiftLeft (b : Bool) (k : Nat) : bitWord b <<< k = fieldAt k (BitVec.ofBool b) := by cases b <;> rfl

theorem sysStateCode_eq_fieldAt (x : SysState) : sysStateCode x = fieldAt 0 ((sysStateCode x).setWidth 2) := by
  cases x <;> rfl

theorem causeCode_shiftLeft (c : Cause) : causeCode c <<< 2 = fieldAt 2 ((causeCode c).setWidth 2) := by
  cases c <;> rfl

theorem phaseCode_eq_fieldAt (p : Phase) : phaseCode p = fieldAt 0 ((phaseCode p).setWidth 2) := by
  cases p <;> rfl

theorem slotCode_eq_fieldAt (x : Slot) : slotCode x = fieldAt 0 (BitVec.ofBool (decide (x = .one))) := by
  cases x <;> rfl

/-! ## One equation per register -/

/-- Rule R41. -/
theorem csrSysStatus_eq_fields (s : State) :
    csrSysStatus s =
      fieldAt 0 ((sysStateCode s.sys.state).setWidth 2) ||| fieldAt 2 ((causeCode s.sys.cause).setWidth 2) := by
  rw [← sysStateCode_eq_fieldAt, ← causeCode_shiftLeft, csrSysStatus]

/-- Rule R42. -/
theorem csrSchStatus_eq_fields (s : State) :
    csrSchStatus s =
      fieldAt 0 (BitVec.ofBool (decide (s.sch.state = .armed))) ||| fieldAt 1 (BitVec.ofBool s.sch.irqPending) := by
  rw [← bitWord_eq_fieldAt, ← bitWord_shiftLeft, csrSchStatus]

/-- Rule R48. -/
theorem csrGenStatus_eq_fields (s : State) :
    csrGenStatus s =
      fieldAt 0 ((phaseCode s.gen.phase).setWidth 2) ||| fieldAt 2 (BitVec.ofBool s.gen.init) |||
        fieldAt 3 (BitVec.ofBool (dreq s)) ||| fieldAt 8 s.gen.osrCnt |||
        fieldAt 16 (BitVec.ofNat 8 s.gen.inq.length) := by
  rw [← phaseCode_eq_fieldAt, ← bitWord_shiftLeft, ← bitWord_shiftLeft, csrGenStatus, fieldAt, fieldAt]

/-- Rule R49. -/
theorem csrGenBitsLeft_eq_field (s : State) : csrGenBitsLeft s = fieldAt 0 s.gen.bitsLeft := setWidth_eq_fieldAt _

/-- Rule R50. -/
theorem csrBldStatus_eq_fields (s : State) :
    csrBldStatus s = fieldAt 0 (BitVec.ofBool s.bld.active) ||| fieldAt 1 s.bld.idx := by
  rw [← bitWord_eq_fieldAt, csrBldStatus, fieldAt]

/-- Rule R51, `CSR[11]`. -/
theorem csrCfgN_eq_field (s : State) : csrCfgN s = fieldAt 0 (BitVec.ofNat 20 s.cfg.n) := setWidth_eq_fieldAt _

/-- Rule R51, `CSR[12]`, two buffers. -/
theorem csrCtxSwap_of_double {s : State} (h : s.cfg.buffers = .double) :
    csrCtxSwap s =
      fieldAt 0 (BitVec.ofBool (decide (s.ctx.cur = .one))) ||| fieldAt 1 (BitVec.ofBool s.ctx.swapReq) := by
  simp only [csrCtxSwap, h, slotCode_eq_fieldAt, bitWord_shiftLeft]

/-- Rule R51, `CSR[12]`, one buffer. -/
theorem csrCtxSwap_of_single {s : State} (h : s.cfg.buffers = .single) : csrCtxSwap s = 0 := by
  simp only [csrCtxSwap, h]

/-! ## The obligations -/

/-- Settles O14: the equations of `CSR[0]` and `CSR[1]`, read field by field. -/
theorem csrSystemAndScheduler : Obligations.CsrSystemAndScheduler := by
  intro s
  refine ⟨⟨csrSysStatus s, rfl, ?_⟩, ⟨csrSchStatus s, rfl, ?_⟩, rfl, rfl, rfl, rfl⟩
  · rw [csrSysStatus_eq_fields]
    simp +contextual [BitVec.extractLsb'_or, sysStateCode, causeCode]
  · rw [csrSchStatus_eq_fields]
    simp [BitVec.extractLsb'_or]

/-- Settles O16: the equations of `CSR[8]` to `CSR[12]`, read field by field. -/
theorem csrGeneratorAndBuilder : Obligations.CsrGeneratorAndBuilder := by
  intro s
  refine ⟨⟨csrGenStatus s, rfl, ?_⟩, ⟨csrGenBitsLeft s, rfl, ?_⟩, ⟨csrBldStatus s, rfl, ?_⟩,
    ⟨csrCfgN s, rfl, ?_⟩, ⟨csrCtxSwap s, rfl, fun hdouble => ?_, csrCtxSwap_of_single⟩, rfl, rfl, rfl, rfl⟩
  · have hlen : s.gen.inq.length ≤ 255 → s.gen.inq.length % 256 = s.gen.inq.length := by omega
    rw [csrGenStatus_eq_fields]
    simp +contextual [BitVec.extractLsb'_or, dreq, phaseCode, hlen]
  · simp [csrGenBitsLeft_eq_field]
  · rw [csrBldStatus_eq_fields]
    simp [BitVec.extractLsb'_or]
  · have hn : s.cfg.n ≤ 699050 → s.cfg.n % 1048576 = s.cfg.n := by omega
    simpa [csrCfgN_eq_field] using hn
  · rw [csrCtxSwap_of_double hdouble]
    simp [BitVec.extractLsb'_or]

end Sys2Proof.Machine
end

section
/-! Sys2Proof/Proofs/Converter: what `conv` answers on each of its three paths, and `CONV` (O17, O19, O20, O22).

The nominal domain of rule R111 as a proposition, one equation of `conv` per path under it, and one equation of `CONV`
where the host is free. -/

namespace Sys2Proof.Machine

/-! ## The nominal domain and the three paths -/

/-- Rule R111. -/
theorem inDomain_iff {h s v : Rat} :
    inDomain h s v = true ↔ (0 ≤ v ∧ v ≤ 1) ∧ (0 ≤ s ∧ s ≤ 1) ∧ (s = 0 ∨ 0 ≤ h ∧ h ≤ 360) := by
  simp [inDomain, and_assoc]

/-- Rule R103: the grey path, which does not look at the hue. -/
theorem conv_zero_sat {v : Rat} (a : Arith) (h : Rat) (hv : 0 ≤ v ∧ v ≤ 1) : conv a h 0 v = convGrey a v := by
  have hdom : inDomain h 0 v = true := inDomain_iff.mpr ⟨hv, ⟨le_rfl, zero_le_one⟩, .inl rfl⟩
  rw [conv, if_pos hdom, if_pos rfl]

/-- Rules R104 to R108: the colour path. -/
theorem conv_of_sat_ne_zero {h s v : Rat} (a : Arith) (hs0 : s ≠ 0) (hv : 0 ≤ v ∧ v ≤ 1) (hs : 0 ≤ s ∧ s ≤ 1)
    (hh : 0 ≤ h ∧ h ≤ 360) : conv a h s v = convColour a h s v := by
  have hdom : inDomain h s v = true := inDomain_iff.mpr ⟨hv, hs, .inr hh⟩
  rw [conv, if_pos hdom, if_neg hs0]

/-- Rule R111: outside the domain. -/
theorem conv_of_not_inDomain {h s v : Rat} (a : Arith) (hdom : ¬ inDomain h s v = true) :
    conv a h s v = Config.oor a h s v := by
  rw [conv, if_neg hdom]

/-! ## The full circle -/

/-- Rule R104. -/
@[simp] theorem foldHue_fullCircle : foldHue 360 = 0 := if_pos rfl

theorem foldHue_of_ne {h : Rat} (hne : h ≠ 360) : foldHue h = h := if_neg hne

@[simp] theorem foldHue_zero : foldHue 0 = 0 := foldHue_of_ne (by norm_num)

/-- The colour path sees the hue only through its fold. -/
theorem convColour_fullCircle (a : Arith) (s v : Rat) : convColour a 360 s v = convColour a 0 s v := by
  simp only [convColour, foldHue_fullCircle, foldHue_zero]

/-! ## The operation `CONV` -/

theorem operandValues_of_values {a : Arith} {h s v : Operand} {h' s' v' : Rat} (hh : operandValue a h = some h')
    (hs : operandValue a s = some s') (hv : operandValue a v = some v') :
    operandValues a h s v = some (h', s', v') := by
  simp only [operandValues, hh, hs, hv]

/-- Rule R110: with no build active, `CONV` of operands that have values replies their colour word. -/
theorem execConv_of_free {st : State} {h s v : Operand} {h' s' v' : Rat} (hfree : hostFree st = true)
    (hvals : operandValues st.cfg.arith h s v = some (h', s', v')) :
    execConv h s v st = .next (replyWord st (conv st.cfg.arith h' s' v')) := by
  simp only [execConv, hfree, hvals, if_true]

/-! ## The obligations -/

/-- Settles O17: no build is active, so the host is free, and the three operands have values. -/
theorem convReplies : Obligations.ConvReplies := by
  intro st h s v h' s' v' hinactive hh hs hv
  have hfree : hostFree st = true := by simp [hostFree, hinactive]
  exact execConv_of_free hfree (operandValues_of_values hh hs hv)

/-- Settles O19, by the grey path. (`convGrey` is the name of the model's function.) -/
theorem convGreyAnyHue : Obligations.ConvGrey := by
  intro a h v hv0 hv1
  exact conv_zero_sat a h ⟨hv0, hv1⟩

/-- Settles O20: without saturation neither hue is looked at, and with it both fold to 0. -/
theorem convFoldsFullCircle : Obligations.ConvFoldsFullCircle := by
  refine ⟨fun h => ⟨?_, foldHue_of_ne⟩, fun a s v hs0 hs1 hv0 hv1 => ?_⟩
  · rintro rfl
    exact foldHue_fullCircle
  · have hv : 0 ≤ v ∧ v ≤ 1 := ⟨hv0, hv1⟩
    have hs : 0 ≤ s ∧ s ≤ 1 := ⟨hs0, hs1⟩
    by_cases hsat : s = 0
    · subst hsat
      rw [conv_zero_sat a 360 hv, conv_zero_sat a 0 hv]
    · calc conv a 360 s v
          = convColour a 360 s v := conv_of_sat_ne_zero a hsat hv hs (by norm_num)
        _ = convColour a 0 s v := convColour_fullCircle a s v
        _ = conv a 0 s v := (conv_of_sat_ne_zero a hsat hv hs (by norm_num)).symm

/-- Settles O22: each of the five ways to be outside contradicts a bound of the nominal domain. -/
theorem convOutsideDomain : Obligations.ConvOutsideDomain := by
  intro a h s v houtside
  refine conv_of_not_inDomain a fun hdom => ?_
  obtain ⟨⟨hv0, hv1⟩, ⟨hs0, hs1⟩, hhue⟩ := inDomain_iff.mp hdom
  rcases houtside with hv | hv | hs | hs | ⟨hsat, hh⟩
  · exact hv.not_ge hv0
  · exact hv.not_ge hv1
  · exact hs.not_ge hs0
  · exact hs.not_ge hs1
  · obtain ⟨hh0, hh1⟩ := hhue.resolve_left hsat
    exact hh.elim hh0.not_gt hh1.not_gt

end Sys2Proof.Machine
end

section
/-! Sys2Proof/Proofs/Builder: the Frame Builder, from `BUILD` to the whole frame (O25 to O29).

One equation of each builder operation per case of its guard; what a word stored in a buffer does to the buffer's words
and to the bytes outside; then the state of a build after its header and `k` pixels, written out (`builtState`): each
builder step leads from one to the next, and after the last the frame stands in memory. -/

namespace Sys2Proof.Machine

/-! ## Where a build goes (rules R120, R130) -/

theorem buildBase_of_single {c : Config} (cur : Slot) (hb : c.buffers = .single) : buildBase c cur = c.bufAddr := by
  simp only [buildBase, hb]

theorem buildBase_of_double {c : Config} (cur : Slot) (hb : c.buffers = .double) :
    buildBase c cur = if cur = .zero then c.bufAddr2 else c.bufAddr := by
  cases cur <;> simp [buildBase, hb, slotAddr, otherSlot]

@[simp] theorem swapAtStart_single (waiting : Bool) : swapAtStart .single waiting = waiting := rfl
@[simp] theorem swapAtStart_double (waiting : Bool) : swapAtStart .double waiting = false := rfl
@[simp] theorem swapAtEnd_single (waiting : Bool) : swapAtEnd .single waiting = waiting := rfl
@[simp] theorem swapAtEnd_double (waiting : Bool) : swapAtEnd .double waiting = true := rfl

/-! ## Enabling conditions -/

theorem alive_iff {s : State} : alive s = true ↔ s.sys.state ≠ .failed := decide_eq_true_iff

theorem hostFree_of_active {s : State} (h : s.bld.active = true) : hostFree s = false := by simp [hostFree, h]

theorem hostOpen_iff {s : State} : hostOpen s = true ↔ s.bld.active = false ∧ s.sys.state ≠ .failed := by
  simp [hostOpen, hostFree, alive_iff]

theorem canBldHdr_iff {s : State} :
    canBldHdr s = true ↔ s.sys.state ≠ .failed ∧ s.bld.active = true ∧ s.bld.idx = 0 := by
  simp [canBldHdr, alive_iff, and_assoc]

theorem canBldPix_iff {s : State} :
    canBldPix s = true ↔
      s.sys.state ≠ .failed ∧ s.bld.active = true ∧ 1 ≤ s.bld.idx.toNat ∧ s.bld.idx.toNat ≤ s.cfg.n := by
  simp [canBldPix, alive_iff, and_assoc]

/-! ## One equation per operation and case -/

/-- Rule R120: while a build is active every operation of the host thread is stuck. -/
theorem exec_host_of_not_free {s : State} {i : Instr} (hfree : hostFree s = false) (hhost : i.agent = .host) :
    exec i s = .next s := by
  have hopen : hostOpen s = false := by simp [hostOpen, hfree]
  cases i with
  | init c g => simp [exec, execInit, hfree]
  | conv h sat v => simp [exec, execConv, hfree]
  | build h sat v => simp [exec, execBuild, hopen]
  | arm => simp [exec, execArm, hopen]
  | rdcsr n => simp [exec, execRdcsr, hfree]
  | _ => cases hhost

/-- Rule R120. -/
theorem execBuild_of_open {st : State} {h s v : Operand} {h' s' v' : Rat} (hopen : hostOpen st = true)
    (hvals : operandValues st.cfg.arith h s v = some (h', s', v')) :
    execBuild h s v st = .next (startBuild st h' s' v') := by
  simp only [execBuild, hopen, hvals, if_true]

/-- Rule R121. -/
theorem execBldHdr_of_can {s : State} (hcan : canBldHdr s = true) : execBldHdr s = .next (storeHeader s) := if_pos hcan

/-- The index after a pixel, where it does not wrap (rule R24). -/
theorem storePixel_idx_toNat {s : State} (hn : s.cfg.n ≤ 699050) (hidx : s.bld.idx.toNat ≤ s.cfg.n) :
    (storePixel s).bld.idx.toNat = s.bld.idx.toNat + 1 := by
  change (s.bld.idx.toNat + 1) % 2 ^ 20 = _
  omega

/-- The index after a pixel is `N + 1` exactly after pixel `N - 1`. -/
theorem storePixel_idx_eq_frameWords {s : State} (hn : s.cfg.n ≤ 699050) (hidx : s.bld.idx.toNat ≤ s.cfg.n) :
    (storePixel s).bld.idx = frameWords s.cfg ↔ s.bld.idx.toNat = s.cfg.n := by
  have hwords : (frameWords s.cfg).toNat = s.cfg.n + 1 := by
    rw [frameWords, BitVec.toNat_ofNat]
    omega
  rw [← BitVec.toNat_inj, storePixel_idx_toNat hn hidx, hwords, Nat.add_right_cancel_iff]

/-- Rule R122, a pixel before the last. -/
theorem execBldPix_of_lt {s : State} (hcan : canBldPix s = true) (hn : s.cfg.n ≤ 699050)
    (hlt : s.bld.idx.toNat < s.cfg.n) : execBldPix s = .next (storePixel s) := by
  have hmore : ¬ (storePixel s).bld.idx = frameWords s.cfg := fun h =>
    hlt.ne ((storePixel_idx_eq_frameWords hn hlt.le).mp h)
  rw [execBldPix, if_pos hcan, if_neg hmore]

/-- Rule R122, the last pixel. -/
theorem execBldPix_of_eq {s : State} (hcan : canBldPix s = true) (hn : s.cfg.n ≤ 699050)
    (heq : s.bld.idx.toNat = s.cfg.n) : execBldPix s = .next (finishBuild (storePixel s)) := by
  rw [execBldPix, if_pos hcan, if_pos ((storePixel_idx_eq_frameWords hn heq.le).mpr heq)]

/-- Rule R123, where the sum reaches 360. -/
theorem advanceCursor_of_ge {a : Arith} {cursor step : Rat} (h : 360 ≤ arithAdd a cursor step) :
    advanceCursor a cursor step = arithSub a (arithAdd a cursor step) 360 := if_pos h

/-- Rule R123, where it does not. -/
theorem advanceCursor_of_lt {a : Arith} {cursor step : Rat} (h : arithAdd a cursor step < 360) :
    advanceCursor a cursor step = arithAdd a cursor step := if_neg h.not_ge

/-! ## What the builder's stores leave in memory -/

theorem memRead_storeHeader (s : State) (a : Addr) :
    memRead (storeHeader s) a = memRead (memWrite s s.bld.base (header s.cfg.n)) a := memRead_congr _ _ rfl rfl rfl a

theorem readByte_storeHeader (s : State) (a : Addr) :
    readByte (storeHeader s) a = readByte (memWrite s s.bld.base (header s.cfg.n)) a :=
  readByte_congr _ _ rfl rfl rfl a

theorem memRead_storePixel (s : State) (a : Addr) :
    memRead (storePixel s) a = memRead (memWrite s (pixelAddr s) (conv s.cfg.arith s.bld.cursor s.bld.s s.bld.v)) a :=
  memRead_congr _ _ rfl rfl rfl a

theorem readByte_storePixel (s : State) (a : Addr) :
    readByte (storePixel s) a =
      readByte (memWrite s (pixelAddr s) (conv s.cfg.arith s.bld.cursor s.bld.s s.bld.v)) a :=
  readByte_congr _ _ rfl rfl rfl a

theorem memRead_finishBuild (s : State) (a : Addr) : memRead (finishBuild s) a = memRead s a :=
  memRead_congr _ _ rfl rfl rfl a

theorem readByte_finishBuild (s : State) (a : Addr) : readByte (finishBuild s) a = readByte s a :=
  readByte_congr _ _ rfl rfl rfl a

/-! ## The words of a buffer (rules R60, R64, R67) -/

section
variable {c : Config} {base : Addr} (hc : configOk c = true) (hb : IsBuffer c base)
include hc hb

/-- A store of word `k` of a buffer is seen at word `k` and at no other word of it. -/
theorem memRead_memWrite_word (s : State) {k j : Nat} (hk : k ≤ c.n) (hj : j ≤ c.n) (w : Word) :
    memRead (memWrite s (wordAddr base k) w) (wordAddr base j) =
      if j = k then some w else memRead s (wordAddr base j) := by
  obtain ⟨halign, -⟩ := isBuffer_ok c base hc hb
  have hkAddr := wordAddr_toNat c base k hc hb hk
  have hjAddr := wordAddr_toNat c base j hc hb hj
  split_ifs with heq
  · rw [heq, memRead_memWrite_same]
  · refine memRead_memWrite_aligned s _ _ w (by omega) (by omega) fun hsame => heq ?_
    have := congrArg BitVec.toNat hsame
    omega

/-- A store of a word of a buffer leaves every byte outside the buffer. -/
theorem readByte_memWrite_word_outside (s : State) {k : Nat} (hk : k ≤ c.n) (w : Word) {a : Addr}
    (ha : ¬ InBuffer c.n base a) : readByte (memWrite s (wordAddr base k) w) a = readByte s a := by
  obtain ⟨-, htop⟩ := isBuffer_ok c base hc hb
  have hkAddr := wordAddr_toNat c base k hc hb hk
  have hne : ∀ i : Nat, i < 4 → a ≠ wordAddr base k + BitVec.ofNat 32 i := by
    rintro i hi rfl
    refine ha ?_
    rw [InBuffer, BitVec.toNat_add, BitVec.toNat_ofNat]
    omega
  have hne0 : a ≠ wordAddr base k := by simpa using hne 0 (by omega)
  exact readByte_memWrite_outside s _ w a hne0 (hne 1 (by omega)) (hne 2 (by omega)) (hne 3 (by omega))

/-- Every byte of a buffer is one of the four of one of its words. -/
theorem exists_word_of_inBuffer {a : Addr} (ha : InBuffer c.n base a) :
    ∃ k i : Nat, k ≤ c.n ∧ i < 4 ∧ a = wordAddr base k + BitVec.ofNat 32 i := by
  obtain ⟨hlow, hhigh⟩ := ha
  refine ⟨(a.toNat - base.toNat) / 4, (a.toNat - base.toNat) % 4, by omega, by omega, ?_⟩
  apply BitVec.eq_of_toNat_eq
  rw [BitVec.toNat_add, wordAddr_toNat c base _ hc hb (by omega), BitVec.toNat_ofNat]
  have := a.isLt
  omega

end

/-- Four values put together, taken apart again; of bytes, with `word_of_bytes`, both directions of rule R62. -/
theorem extractLsb'_append_four {k l m n : Nat} (b0 : BitVec k) (b1 : BitVec l) (b2 : BitVec m) (b3 : BitVec n) :
    (b3 ++ b2 ++ b1 ++ b0).extractLsb' 0 k = b0 ∧ (b3 ++ b2 ++ b1 ++ b0).extractLsb' k l = b1 ∧
    (b3 ++ b2 ++ b1 ++ b0).extractLsb' (k + l) m = b2 ∧ (b3 ++ b2 ++ b1 ++ b0).extractLsb' (k + l + m) n = b3 := by
  simp [BitVec.extractLsb'_append_eq_of_le, BitVec.extractLsb'_append_eq_right, Nat.add_assoc]

/-- The bytes of a word that reads as `w` (rule R62). -/
theorem readByte_of_memRead {s : State} {a : Addr} {w : Word} (h : memRead s a = some w) {i : Nat} (hi : i < 4) :
    readByte s (a + BitVec.ofNat 32 i) = some (w.extractLsb' (8 * i) 8) := by
  unfold memRead at h
  split at h
  · rename_i b0 b1 b2 b3 h0 h1 h2 h3
    obtain rfl := Option.some.inj h
    obtain ⟨hb0, hb1, hb2, hb3⟩ := extractLsb'_append_four b0 b1 b2 b3
    obtain rfl | rfl | rfl | rfl : i = 0 ∨ i = 1 ∨ i = 2 ∨ i = 3 := by omega
    · simpa only [BitVec.add_zero] using h0.trans (congrArg some hb0.symm)
    · exact h1.trans (congrArg some hb1.symm)
    · exact h2.trans (congrArg some hb2.symm)
    · exact h3.trans (congrArg some hb3.symm)
  · cases h

/-! ## A build, step by step (rules R121 to R124) -/

/-- The word a build begun in `s` stores at index `i` of its buffer. -/
def builtWord (s : State) : Nat → Word
  | 0 => header s.cfg.n
  | k + 1 => conv s.cfg.arith (cursorAt s.cfg.arith s.bld.step k s.bld.cursor) s.bld.s s.bld.v

/-- Rule R125: the words of a build are a function of the operands and the configuration. -/
theorem builtWord_startBuild_congr {st₁ st₂ : State} (hcfg : st₂.cfg = st₁.cfg) (h s v : Rat) (k : Nat) :
    builtWord (startBuild st₂ h s v) k = builtWord (startBuild st₁ h s v) k := by
  cases k <;> simp only [builtWord, startBuild_cfg, startBuild_bld, hcfg]

/-- Memory once a build begun in `s` has stored its first `m` words. -/
def builtMem (s : State) : Nat → List Host.Cell
  | 0 => s.mem
  | m + 1 => storeWord (builtMem s m) (wordAddr s.bld.base m) (builtWord s m)

/-- `s` with the first `m` words of its build in memory. -/
def withWords (s : State) (m : Nat) : State := { s with mem := builtMem s m }

/-- The state of a build begun in `s` once the header and `k` pixels are stored. -/
def builtState (s : State) (k : Nat) : State :=
  { withWords s (k + 1) with
    bld :=
      { s.bld with
        idx := BitVec.ofNat 20 (k + 1)
        cursor := cursorAt s.cfg.arith s.bld.step k s.bld.cursor } }

/-- `s` is as `BUILD` leaves it: the request latched, nothing stored yet, the configuration one with a meaning. -/
structure BuildBegun (s : State) : Prop where
  config : configOk s.cfg = true
  buffer : IsBuffer s.cfg s.bld.base
  alive : s.sys.state ≠ .failed
  active : s.bld.active = true
  idx : s.bld.idx = 0

theorem n_bounds_of_configOk {c : Config} (hc : configOk c = true) : 1 ≤ c.n ∧ c.n ≤ 699050 := by
  simp only [configOk, Bool.and_eq_true, decide_eq_true_eq] at hc
  omega

theorem withWords_succ (s : State) (m : Nat) :
    withWords s (m + 1) = memWrite (withWords s m) (wordAddr s.bld.base m) (builtWord s m) := rfl

theorem storeHeader_eq_builtState (s : State) : storeHeader s = builtState s 0 := by
  simp only [storeHeader, builtState, withWords, builtMem, wordAddr_zero]
  rfl

/-- A pixel stored carries the build from `k` pixels to `k + 1`, while the index does not wrap. -/
theorem storePixel_builtState (s : State) {k : Nat} (hk : k + 1 < 2 ^ 20) :
    storePixel (builtState s k) = builtState s (k + 1) := by
  have haddr : pixelAddr (builtState s k) = wordAddr s.bld.base (k + 1) :=
    congrArg (wordAddr s.bld.base) (Nat.mod_eq_of_lt hk)
  have hidx : BitVec.ofNat 20 (k + 1) + 1 = BitVec.ofNat 20 (k + 1 + 1) := (BitVec.ofNat_add _ _).symm
  rw [storePixel, haddr]
  simp only [builtState, hidx]
  rfl

/-! ## The frame a build leaves -/

section
variable {s : State} (hs : BuildBegun s)
include hs

theorem memRead_withWords {i m : Nat} (hi : i < m) (hm : m ≤ s.cfg.n + 1) :
    memRead (withWords s m) (wordAddr s.bld.base i) = some (builtWord s i) := by
  induction m with
  | zero => omega
  | succ m ih =>
    rw [withWords_succ, memRead_memWrite_word hs.config hs.buffer _ (by omega) (by omega)]
    split_ifs with heq
    · rw [heq]
    · exact ih (by omega) (by omega)

theorem readByte_withWords_outside {a : Addr} (ha : ¬ InBuffer s.cfg.n s.bld.base a) {m : Nat}
    (hm : m ≤ s.cfg.n + 1) : readByte (withWords s m) a = readByte s a := by
  induction m with
  | zero => rfl
  | succ m ih =>
    rw [withWords_succ, readByte_memWrite_word_outside hs.config hs.buffer _ (by omega) _ ha, ih (by omega)]

/-- Rule R124: every word of the buffer is the one built. -/
theorem memRead_frame {i : Nat} (hi : i ≤ s.cfg.n) :
    memRead (finishBuild (builtState s s.cfg.n)) (wordAddr s.bld.base i) = some (builtWord s i) :=
  (memRead_congr (withWords s (s.cfg.n + 1)) _ rfl rfl rfl _).trans (memRead_withWords hs (by omega) le_rfl)

theorem readByte_frame_outside {a : Addr} (ha : ¬ InBuffer s.cfg.n s.bld.base a) :
    readByte (finishBuild (builtState s s.cfg.n)) a = readByte s a :=
  (readByte_congr (withWords s (s.cfg.n + 1)) _ rfl rfl rfl a).trans (readByte_withWords_outside hs ha le_rfl)

/-- The bytes of the buffer are those of the words built. -/
theorem readByte_frame {k i : Nat} (hk : k ≤ s.cfg.n) (hi : i < 4) :
    readByte (finishBuild (builtState s s.cfg.n)) (wordAddr s.bld.base k + BitVec.ofNat 32 i) =
      some ((builtWord s k).extractLsb' (8 * i) 8) :=
  readByte_of_memRead (memRead_frame hs hk) hi

/-! ## Running a build -/

theorem builtState_idx_toNat {k : Nat} (hk : k < s.cfg.n) : (builtState s k).bld.idx.toNat = k + 1 := by
  have := n_bounds_of_configOk hs.config
  exact Nat.mod_eq_of_lt (by omega)

/-- The builder's step while pixels are left is `BLD.PIX`, and it is enabled. -/
theorem bldStep_builtState {k : Nat} (hk : k < s.cfg.n) :
    bldStepInstr (builtState s k) = .bldPix ∧ canBldPix (builtState s k) = true := by
  have hidx := builtState_idx_toNat hs hk
  refine ⟨if_neg fun h0 => ?_, canBldPix_iff.mpr ⟨hs.alive, hs.active, by omega, hidx.trans_le hk⟩⟩
  rw [h0] at hidx
  cases hidx

theorem runBuilder_builtState {k m : Nat} (hleft : k + (m + 1) = s.cfg.n) :
    runBuilder (m + 1) (builtState s k) = .next (finishBuild (builtState s s.cfg.n)) := by
  obtain ⟨-, hn⟩ := n_bounds_of_configOk hs.config
  induction m generalizing k with
  | zero =>
    obtain ⟨hinstr, hcan⟩ := bldStep_builtState hs (k := k) (by omega)
    have hlast := execBldPix_of_eq hcan hn ((builtState_idx_toNat hs (by omega)).trans hleft)
    rw [storePixel_builtState s (by omega), hleft] at hlast
    rw [runBuilder, hinstr, exec, hlast, andThen, runBuilder]
  | succ m ih =>
    obtain ⟨hinstr, hcan⟩ := bldStep_builtState hs (k := k) (by omega)
    have hidx := builtState_idx_toNat hs (k := k) (by omega)
    have hnext := execBldPix_of_lt hcan hn (hidx.trans_lt (by omega : k + 1 < s.cfg.n))
    rw [storePixel_builtState s (by omega)] at hnext
    rw [runBuilder, hinstr, exec, hnext, andThen, ih (by omega)]

/-- The `N + 1` steps of a build: the header, then the pixels. -/
theorem runBuilder_of_begun : runBuilder (s.cfg.n + 1) s = .next (finishBuild (builtState s s.cfg.n)) := by
  obtain ⟨hn, -⟩ := n_bounds_of_configOk hs.config
  obtain ⟨m, hm⟩ := Nat.exists_eq_add_of_le' hn
  have hinstr : bldStepInstr s = .bldHdr := if_pos hs.idx
  have hheader := execBldHdr_of_can (canBldHdr_iff.mpr ⟨hs.alive, hs.active, hs.idx⟩)
  rw [runBuilder, hinstr, exec, hheader, andThen, storeHeader_eq_builtState, hm,
    runBuilder_builtState hs (by omega), hm]

end

theorem buildBegun_startBuild {st : State} (hc : configOk st.cfg = true) (halive : st.sys.state ≠ .failed)
    (h s v : Rat) : BuildBegun (startBuild st h s v) :=
  ⟨hc, isBuffer_buildBase st.cfg st.ctx.cur, halive, rfl, rfl⟩

/-- Rule R93, `BUILD!`: the build is begun and its steps are run. -/
theorem runLine_buildAll {st : State} {h s v : Operand} {h' s' v' : Rat} (fuel : Nat) (hc : configOk st.cfg = true)
    (hopen : hostOpen st = true) (hvals : operandValues st.cfg.arith h s v = some (h', s', v')) :
    runLine fuel (.buildAll h s v) st = .next (finishBuild (builtState (startBuild st h' s' v') st.cfg.n)) := by
  have hbegun := buildBegun_startBuild hc (hostOpen_iff.mp hopen).2 h' s' v'
  rw [runLine, exec, execBuild_of_open hopen hvals, andThen]
  exact runBuilder_of_begun hbegun

/-- A `BUILD!` that ends was one of finite operands (rule R112). -/
theorem operandValues_of_runLine_buildAll {st t : State} {h s v : Operand} {fuel : Nat} (hopen : hostOpen st = true)
    (hrun : runLine fuel (.buildAll h s v) st = .next t) :
    ∃ h' s' v', operandValues st.cfg.arith h s v = some (h', s', v') := by
  cases hvals : operandValues st.cfg.arith h s v with
  | none => simp [runLine, exec, execBuild, hopen, hvals, andThen] at hrun
  | some vals => exact ⟨_, _, _, rfl⟩

/-! ## The obligations -/

/-- Settles O25: the host's five operations are stuck while a build is active, and `BUILD` on an open host latches its
request at the base that one buffer, or the slot that is not live, gives. -/
theorem buildStarts : Obligations.BuildStarts := by
  refine ⟨fun st i hactive hhost => exec_host_of_not_free (hostFree_of_active hactive) hhost, ?_⟩
  intro st h s v h' s' v' hinactive hstate hh hs hv
  have halive : st.sys.state ≠ .failed := by rcases hstate with hstate | hstate <;> simp [hstate]
  have hbuild : exec (.build h s v) st = .next (startBuild st h' s' v') :=
    execBuild_of_open (hostOpen_iff.mpr ⟨hinactive, halive⟩) (operandValues_of_values hh hs hv)
  refine ⟨fun hb => ?_, fun hb => ?_⟩
  · rw [hbuild, startBuild, buildBase_of_single _ hb, hb, swapAtStart_single, hueStep]
  · rw [hbuild, startBuild, buildBase_of_double _ hb, hb, swapAtStart_double, hueStep]

/-- Settles O26: `BLD.HDR` is `storeHeader`, one word written. -/
theorem bldHdrStores : Obligations.BldHdrStores := by
  intro s halive hactive hidx
  refine ⟨storeHeader s, execBldHdr_of_can (canBldHdr_iff.mpr ⟨halive, hactive, hidx⟩), ?_, ?_, rfl⟩
  · rw [memRead_storeHeader, memRead_memWrite_same, header]
  · intro a h0 h1 h2 h3
    rw [readByte_storeHeader, readByte_memWrite_outside s _ _ a h0 h1 h2 h3]

/-- Settles O27: `BLD.PIX` is `storePixel`, one word written, followed after the last pixel by `finishBuild`. -/
theorem bldPixStores : Obligations.BldPixStores := by
  rintro s a sum halive hactive hidx hle hn rfl rfl
  have hcan := canBldPix_iff.mpr ⟨halive, hactive, hidx, hle⟩
  have hword : memRead (storePixel s) (pixelAddr s) = some (conv s.cfg.arith s.bld.cursor s.bld.s s.bld.v) := by
    rw [memRead_storePixel, memRead_memWrite_same]
  have houtside : ∀ c : Addr, c ≠ pixelAddr s → c ≠ pixelAddr s + 1 → c ≠ pixelAddr s + 2 → c ≠ pixelAddr s + 3 →
      readByte (storePixel s) c = readByte s c := by
    intro c h0 h1 h2 h3
    rw [readByte_storePixel, readByte_memWrite_outside s _ _ c h0 h1 h2 h3]
  have hnext := storePixel_idx_toNat hn hle
  rcases hle.lt_or_eq with hlt | heq
  · exact ⟨storePixel s, execBldPix_of_lt hcan hn hlt, hword, houtside, hnext, advanceCursor_of_ge,
      advanceCursor_of_lt, fun _ => ⟨hactive, rfl⟩, fun heq => absurd heq hlt.ne, rfl⟩
  · refine ⟨finishBuild (storePixel s), execBldPix_of_eq hcan hn heq, ?_, ?_, hnext, advanceCursor_of_ge,
      advanceCursor_of_lt, fun hlt => absurd heq hlt.ne, fun _ => ⟨rfl, fun hb => ?_, fun hb => ?_⟩, rfl⟩
    · exact (memRead_finishBuild _ _).trans hword
    · exact fun c h0 h1 h2 h3 => (readByte_finishBuild _ c).trans (houtside c h0 h1 h2 h3)
    · simp [hb]
    · simp [hb]

/-- Settles O28: the state `BUILD!` ends in is written out, and its frame is read word by word. -/
theorem wholeBuild : Obligations.WholeBuild := by
  intro st h s v h' s' v' fuel hc hinactive halive hvals
  have hrun := runLine_buildAll fuel hc (hostOpen_iff.mpr ⟨hinactive, halive⟩) hvals
  have hbegun := buildBegun_startBuild hc halive h' s' v'
  have hn := n_bounds_of_configOk hc
  refine ⟨_, hrun, ?_, fun k hk => memRead_frame hbegun hk, fun a ha => ?_, rfl, Nat.mod_eq_of_lt (by omega), rfl,
    fun hb => ?_, fun hb => ?_, rfl⟩
  · have hheader := memRead_frame hbegun (Nat.zero_le _)
    rwa [wordAddr_zero] at hheader
  · exact (readByte_frame_outside hbegun ha).trans (readByte_congr _ _ rfl rfl rfl a)
  · simp [builtState, withWords, hb]
  · simp [builtState, withWords, hb]

/-- Settles O29: a byte of the buffer is a byte of a word built, and the words built are a function of the operands and
the configuration. -/
theorem rebuildByteIdentical : Obligations.RebuildByteIdentical := by
  intro st₁ st₂ t₁ t₂ h s v fuel hc hcfg hcur hinactive₁ hinactive₂ halive₁ halive₂ hrun₁ hrun₂ a ha
  have hopen₁ := hostOpen_iff.mpr ⟨hinactive₁, halive₁⟩
  have hopen₂ := hostOpen_iff.mpr ⟨hinactive₂, halive₂⟩
  obtain ⟨h', s', v', hvals⟩ := operandValues_of_runLine_buildAll hopen₁ hrun₁
  rw [runLine_buildAll fuel hc hopen₁ hvals] at hrun₁
  rw [runLine_buildAll fuel (hcfg ▸ hc) hopen₂ (hcfg ▸ hvals)] at hrun₂
  obtain rfl := Host.Outcome.next.inj hrun₁
  obtain rfl := Host.Outcome.next.inj hrun₂
  obtain ⟨k, i, hk, hi, rfl⟩ := exists_word_of_inBuffer hc (isBuffer_buildBase st₁.cfg st₁.ctx.cur) ha
  have hbyte₁ := readByte_frame (buildBegun_startBuild hc halive₁ h' s' v') hk hi
  have hbyte₂ := readByte_frame (buildBegun_startBuild (hcfg ▸ hc) halive₂ h' s' v') (hcfg ▸ hk) hi
  simp only [startBuild_cfg, startBuild_bld, builtWord_startBuild_congr hcfg, hcfg, hcur] at hbyte₁ hbyte₂
  rw [hcfg, hbyte₂, hbyte₁]

end Sys2Proof.Machine
end

section
/-! Sys2Proof/Proofs/Scheduler: the Refresh Scheduler, `ARM`, `TICK` and the tick handler (O32 to O34, O36, O37).

One equation of each operation, and of the swap and the trigger inside the handler, per case of its guard. A trigger
reaches into the scheduler's registers: `triggerEngine_sch` says once what it does there (it is counted when it is
discarded), and the invariants of `sch.state` and `sch.dropped` follow from it, effect by effect. -/

namespace Sys2Proof.Machine

/-! ## Enabling conditions -/

theorem canTick_iff {s : State} :
    canTick s = true ↔
      s.sys.state ≠ .failed ∧ s.sch.state = .armed ∧ s.sch.irqPending = false ∧
        (s.cfg.timed = true → s.sch.deadline ≤ s.env.now) := by
  cases htimed : s.cfg.timed <;> simp [canTick, alive_iff, htimed, and_assoc]

theorem canIrq_iff {s : State} : canIrq s = true ↔ s.sys.state ≠ .failed ∧ s.sch.irqPending = true := by
  simp [canIrq, alive_iff]

/-! ## One equation per operation and case -/

theorem execArm_of_not_open {s : State} (hopen : ¬ hostOpen s = true) : execArm s = .next s := if_neg hopen

/-- Rules R141 and R232: before `INIT` has succeeded. -/
theorem execArm_of_reset {s : State} (hopen : hostOpen s = true) (hreset : s.sys.state = .reset) :
    execArm s = .next (raiseFault s .genNotInit) := by
  rw [execArm, if_pos hopen, if_pos hreset]

/-- Rule R141: a second `ARM`. -/
theorem execArm_of_armed {s : State} (hopen : hostOpen s = true) (hreset : s.sys.state ≠ .reset)
    (harmed : s.sch.state = .armed) : execArm s = .refused .secondArm := by
  rw [execArm, if_pos hopen, if_neg hreset, if_pos harmed]

/-- Rule R141: the first `ARM`. -/
theorem execArm_of_not_armed {s : State} (hopen : hostOpen s = true) (hreset : s.sys.state ≠ .reset)
    (hidle : s.sch.state ≠ .armed) : execArm s = .next (armTimer s) := by
  rw [execArm, if_pos hopen, if_neg hreset, if_neg hidle]

/-- Rule R142. -/
theorem execTick_of_can {s : State} (hcan : canTick s = true) : execTick s = .next (raiseTick s) := if_pos hcan

theorem execTick_of_not_can {s : State} (hcan : ¬ canTick s = true) : execTick s = .next s := if_neg hcan

/-- Rule R143. -/
theorem execIrq_of_can {s : State} (hcan : canIrq s = true) : execIrq s = .next (tickHandler s) := if_pos hcan

/-! ## The swap inside the handler (rules R143, R150) -/

/-- The handler's swap writes the Refresh Context and nothing else. -/
theorem handlerSwap_eq_ctx (s : State) : handlerSwap s = { s with ctx := (handlerSwap s).ctx } := by
  rcases handlerSwap_cases s with ⟨-, hswap⟩ | ⟨-, hswap⟩
  · rw [hswap]
  · rcases swapSlots_cases s with hkeep | ⟨-, -, -, hmove⟩
    · rw [hswap, hkeep]
    · rw [hswap, hmove]

/-- In every state the swap is due, or one of the four reasons of rule R150 against it holds. -/
theorem swap_due_or_not (s : State) :
    (s.cfg.buffers = .double ∧ s.ctx.swapReq = true ∧ s.dma.busy = false ∧ s.dma.pending = false) ∨
      (s.cfg.buffers = .single ∨ s.ctx.swapReq = false ∨ s.dma.busy = true ∨ s.dma.pending = true) := by
  have hsingle : s.cfg.buffers = .single ↔ ¬ s.cfg.buffers = .double := by cases s.cfg.buffers <;> simp
  refine or_iff_not_imp_left.mpr fun hnot => ?_
  simpa only [hsingle, not_and_or, Bool.not_eq_true, Bool.not_eq_false] using hnot

/-- Rule R150: the swap is due. -/
theorem handlerSwap_ctx_of_due {s : State} (hdouble : s.cfg.buffers = .double) (hreq : s.ctx.swapReq = true)
    (hbusy : s.dma.busy = false) (hpending : s.dma.pending = false) :
    (handlerSwap s).ctx =
      { s.ctx with
        cur := if s.ctx.cur = .zero then .one else .zero
        addr := if s.ctx.cur = .zero then s.cfg.bufAddr2 else s.cfg.bufAddr
        swapReq := false } := by
  have hswap : handlerSwap s = swapSlots s := by simp only [handlerSwap, hdouble]
  rw [hswap, swapSlots, if_pos ⟨hreq, hbusy, hpending⟩]
  cases hcur : s.ctx.cur <;> simp [otherSlot, slotAddr]

/-- Rules R143 and R150: the swap is not due, or there is none. -/
theorem handlerSwap_of_not_due {s : State}
    (h : s.cfg.buffers = .single ∨ s.ctx.swapReq = false ∨ s.dma.busy = true ∨ s.dma.pending = true) :
    handlerSwap s = s := by
  rcases handlerSwap_cases s with ⟨-, hswap⟩ | ⟨hdouble, hswap⟩
  · exact hswap
  · rcases swapSlots_cases s with hkeep | ⟨hreq, hbusy, hpending, -⟩
    · rw [hswap, hkeep]
    · simp [hdouble, hreq, hbusy, hpending] at h

/-! ## The trigger inside the handler (rules R161 to R163) -/

/-- Rule R161. -/
theorem triggerEngine_of_idle {s : State} (addr : Addr) (hbusy : s.dma.busy = false) :
    triggerEngine s addr = startTransfer s addr := if_pos hbusy

/-- Rule R163, the first request that finds the engine busy. -/
theorem triggerEngine_of_queue {s : State} (addr : Addr) (hbusy : s.dma.busy = true)
    (hpolicy : s.cfg.busyPolicy = .queue) (hpending : s.dma.pending = false) :
    triggerEngine s addr = { s with dma := { s.dma with pending := true, pendAddr := addr } } := by
  simp [triggerEngine, hbusy, hpolicy, hpending]

/-- Whether a trigger in this state is discarded: the engine is busy, and there is no queue or it is full (rules R162,
R163). -/
def discardsTrigger (s : State) : Bool :=
  s.dma.busy && (decide (s.cfg.busyPolicy = .drop) || s.dma.pending)

theorem discardsTrigger_iff {s : State} :
    discardsTrigger s = true ↔ s.dma.busy = true ∧ (s.cfg.busyPolicy = .drop ∨ s.dma.pending = true) := by
  simp [discardsTrigger]

/-- A trigger is discarded exactly where `discardsTrigger` says so. -/
theorem triggerEngine_of_discards {s : State} (addr : Addr) (hdisc : discardsTrigger s = true) :
    triggerEngine s addr = dropTrigger s := by
  obtain ⟨hbusy, hfull⟩ := discardsTrigger_iff.mp hdisc
  rcases triggerEngine_cases s addr with ⟨hidle, -⟩ | ⟨-, hpolicy, hpending, -⟩ | ⟨-, -, hdrop⟩
  · simp [hidle] at hbusy
  · simp [hpolicy, hpending] at hfull
  · exact hdrop

/-- What a trigger does to the scheduler's registers: a discarded one is counted (rule R147), no other is seen there. -/
@[simp] theorem triggerEngine_sch (s : State) (addr : Addr) :
    (triggerEngine s addr).sch =
      { s.sch with dropped := if discardsTrigger s then s.sch.dropped + 1 else s.sch.dropped } := by
  rcases triggerEngine_cases s addr with ⟨hidle, heq⟩ | ⟨-, hpolicy, hpending, heq⟩ | ⟨hbusy, hfull, heq⟩
  · simp [heq, discardsTrigger, hidle]
  · simp [heq, discardsTrigger, hpolicy, hpending]
  · simp [heq, discardsTrigger_iff.mpr ⟨hbusy, hfull⟩]

/-! ## The whole handler (rule R143) -/

/-- The handler is a trigger on the buffer that is live after the swap, the request lowered before it and the deadline
moved after it. -/
theorem tickHandler_of_ctx {s : State} {ctx : Ctx} (hctx : (handlerSwap (clearTick s)).ctx = ctx) :
    tickHandler s = nextDeadline (triggerEngine { clearTick s with ctx := ctx } ctx.addr) := by
  have hswap := handlerSwap_eq_ctx (clearTick s)
  rw [hctx] at hswap
  rw [tickHandler, hswap]

/-- What the handler does to the scheduler's registers. -/
@[simp] theorem tickHandler_sch (s : State) :
    (tickHandler s).sch =
      { s.sch with
        irqPending := false
        dropped := if discardsTrigger s then s.sch.dropped + 1 else s.sch.dropped
        deadline := if s.cfg.timed then s.sch.deadline + s.cfg.tickPeriod else s.sch.deadline } := by
  have hdisc : discardsTrigger (handlerSwap (clearTick s)) = discardsTrigger s := by simp [discardsTrigger]
  simp [tickHandler, hdisc]

/-! ## What an operation does to `sch.state` and `sch.dropped` -/

/-- Rule R140: the timer's state is written by `RESET` and `ARM` alone. -/
theorem Effect.sch_state {i : Instr} {s t : State} (h : Effect i s t) (hreset : i ≠ .reset) (harm : i ≠ .arm) :
    t.sch.state = s.sch.state := by
  cases h with
  | reset hi => exact absurd hi hreset
  | arm hi => exact absurd hi harm
  | _ => simp

/-- Rule R147: the count is written by `RESET` and by a discarded trigger alone. -/
theorem Effect.sch_dropped {i : Instr} {s t : State} (h : Effect i s t) (hreset : i ≠ .reset) :
    t.sch.dropped = s.sch.dropped ∨
      t.sch.dropped = s.sch.dropped + 1 ∧ (i = .irq ∨ ∃ chan addr, i = .trigger chan addr) ∧
        discardsTrigger s = true := by
  cases h with
  | reset hi => exact absurd hi hreset
  | irq hi => cases hdisc : discardsTrigger s <;> simp [hdisc, hi]
  | trigger chan addr hi => cases hdisc : discardsTrigger s <;> simp [hdisc, hi]
  | _ => exact .inl (by simp)

/-! ## The obligations -/

/-- Settles O34: the context after the swap is the one given, and the trigger on it has four cases. -/
theorem irqHandlesTick : Obligations.IrqHandlesTick := by
  rintro s ctx sch halive hirq hdue hnotDue rfl
  have hctx : (handlerSwap (clearTick s)).ctx = ctx := by
    rcases swap_due_or_not s with hswap | hkeep
    · obtain ⟨hdouble, hreq, hbusy, hpending⟩ := hswap
      rw [hdue ⟨hdouble, hreq, hbusy, hpending⟩]
      exact handlerSwap_ctx_of_due (s := clearTick s) hdouble hreq hbusy hpending
    · rw [hnotDue hkeep, handlerSwap_of_not_due (s := clearTick s) hkeep, clearTick_ctx]
  have hnext {u : State} (htrigger : triggerEngine { clearTick s with ctx := ctx } ctx.addr = u) :
      exec .irq s = .next (nextDeadline u) := by
    rw [exec, execIrq_of_can (canIrq_iff.mpr ⟨halive, hirq⟩), tickHandler_of_ctx hctx, htrigger]
  refine ⟨fun hbusy => ?_, fun hbusy hpolicy => ?_, fun hbusy hpolicy hpending => ?_, fun hbusy _ hpending => ?_⟩
  · rw [hnext (triggerEngine_of_idle _ hbusy)]
    rfl
  · rw [hnext (triggerEngine_of_discards _ (discardsTrigger_iff.mpr ⟨hbusy, .inl hpolicy⟩))]
    rfl
  · rw [hnext (triggerEngine_of_queue _ hbusy hpolicy hpending)]
    rfl
  · rw [hnext (triggerEngine_of_discards _ (discardsTrigger_iff.mpr ⟨hbusy, .inr hpending⟩))]
    rfl

/-- Settles O36: only `ARM` and `RESET` write the timer's state, and `ARM` leaves an armed one alone. -/
theorem timerNeverDisarmed : Obligations.TimerNeverDisarmed := by
  intro s t i hexec hreset
  by_cases harm : i = .arm
  · subst harm
    refine ⟨fun harmed => ?_, fun _ _ => rfl⟩
    rcases execArm_next hexec with ⟨-, -, rfl⟩ | ⟨-, -, hidle, -⟩ | rfl
    · exact harmed
    · exact absurd harmed hidle
    · exact harmed
  · have hkeep := (exec_effect hexec).sch_state hreset harm
    refine ⟨hkeep.trans, fun hidle harmed => ?_⟩
    rw [hkeep, hidle] at harmed
    cases harmed

/-- Settles O37: the count moves only with a discarded trigger, and both operations that trigger count one. -/
theorem droppedCountsDiscardedTriggers : Obligations.DroppedCountsDiscardedTriggers := by
  intro s t i hexec hreset
  refine ⟨fun hmoved => ?_, ?_, ?_⟩
  · obtain ⟨hcount, hop, hdisc⟩ := ((exec_effect hexec).sch_dropped hreset).resolve_left hmoved
    exact ⟨hcount, hop, discardsTrigger_iff.mp hdisc⟩
  · rintro rfl hirq halive hbusy hfull
    have hdisc := discardsTrigger_iff.mpr ⟨hbusy, hfull⟩
    rcases execIrq_next hexec with ⟨-, rfl⟩ | ⟨hstuck, -⟩
    · simp [hdisc]
    · simp [canIrq_iff.mpr ⟨halive, hirq⟩] at hstuck
  · rintro addr rfl hready hbusy hfull
    have hdisc := discardsTrigger_iff.mpr ⟨hbusy, hfull⟩
    rcases execTrigger_next hexec with ⟨-, -, -, rfl⟩ | ⟨hstuck, -⟩
    · simp [hdisc]
    · simp [canTrigger, hready] at hstuck

/-- Settles O32: one equation of `ARM` per case. -/
theorem armArmsOrFaults : Obligations.ArmArmsOrFaults := by
  intro s hinactive
  have hopen (halive : s.sys.state ≠ .failed) : hostOpen s = true := hostOpen_iff.mpr ⟨hinactive, halive⟩
  have harm (hready : s.sys.state = .ready) (hidle : s.sch.state = .idle) : exec .arm s = .next (armTimer s) :=
    execArm_of_not_armed (hopen (by simp [hready])) (by simp [hready]) (by simp [hidle])
  refine ⟨fun hreset => execArm_of_reset (hopen (by simp [hreset])) hreset,
    fun hready harmed => execArm_of_armed (hopen (by simp [hready])) (by simp [hready]) harmed,
    fun hready hidle htimed => ?_, fun hready hidle htimed => ?_, fun hfailed => execArm_of_not_open ?_⟩
  · rw [harm hready hidle, armTimer, htimed]
    rfl
  · rw [harm hready hidle, armTimer, htimed]
    rfl
  · simp [hostOpen_iff, hfailed]

/-- Settles O33: `TICK` by the condition that enables it, which each of the three ways to wait contradicts. -/
theorem tickRaisesRequest : Obligations.TickRaisesRequest := by
  intro s halive
  refine ⟨fun harmed hnone hdue => execTick_of_can (canTick_iff.mpr ⟨halive, harmed, hnone, hdue⟩),
    fun hwait => execTick_of_not_can fun hcan => ?_⟩
  obtain ⟨-, harmed, hnone, hdue⟩ := canTick_iff.mp hcan
  rcases hwait with hidle | hpending | ⟨htimed, hearly⟩
  · simp [harmed] at hidle
  · simp [hnone] at hpending
  · exact (hdue htimed).not_gt hearly

end Sys2Proof.Machine
end

section
/-! Sys2Proof/Proofs/Engine: the transfer engine, `XFER` (O40).

The condition that enables `XFER`, and one equation of the step and of the end of a transfer per case. -/

namespace Sys2Proof.Machine

/-! ## Enabling conditions -/

/-- Rules R28 and R191. -/
theorem dreq_iff {s : State} : dreq s = true ↔ s.gen.init = true ∧ s.gen.inq.length < s.cfg.inDepth := by
  simp [dreq]

/-- Rule R164. -/
theorem canXfer_iff {s : State} :
    canXfer s = true ↔
      s.sys.state ≠ .failed ∧ s.dma.busy = true ∧ s.gen.init = true ∧ s.gen.inq.length < s.cfg.inDepth := by
  simp [canXfer, alive_iff, dreq_iff, and_assoc]

/-! ## One equation per operation and case -/

theorem execXfer_of_not_can {s : State} (hcan : ¬ canXfer s = true) : execXfer s = .next s := if_neg hcan

/-- Rule R164, a word memory holds. -/
theorem execXfer_of_can {s : State} {w : Word} (hcan : canXfer s = true) (hword : memRead s s.dma.raddr = some w) :
    execXfer s = .next (moveWord s w) := by
  rw [execXfer, if_pos hcan, hword]

/-- Rule R164, a word before the last. -/
theorem moveWord_of_more {s : State} (w : Word) (hmore : s.dma.remaining ≠ 1) : moveWord s w = deliverWord s w :=
  if_neg (mt sub_eq_zero.mp hmore)

/-- Rule R164, the last word. -/
theorem moveWord_of_last {s : State} (w : Word) (hlast : s.dma.remaining = 1) :
    moveWord s w = completeTransfer (deliverWord s w) :=
  if_pos (sub_eq_zero.mpr hlast)

/-- Rule R165: the queued transfer starts. -/
theorem completeTransfer_of_queued {s : State} (hpolicy : s.cfg.busyPolicy = .queue) (hpending : s.dma.pending = true) :
    completeTransfer s =
      { s with dma := { s.dma with raddr := s.dma.pendAddr, remaining := frameWords s.cfg, pending := false } } :=
  if_pos ⟨hpolicy, hpending⟩

/-- Rule R165: the engine goes idle. -/
theorem completeTransfer_of_not_queued {s : State} (hnone : s.cfg.busyPolicy = .drop ∨ s.dma.pending = false) :
    completeTransfer s = { s with dma := { s.dma with busy := false } } := by
  refine if_neg fun ⟨hpolicy, hpending⟩ => ?_
  simp [hpolicy, hpending] at hnone

/-! ## The obligations -/

/-- Settles O40: `XFER` by the condition that enables it, and the word moved by whether it is the last and what is
queued behind it. -/
theorem xferMovesOneWord : Obligations.XferMovesOneWord := by
  refine ⟨fun s hwait => execXfer_of_not_can fun hcan => ?_, fun s w halive hbusy hinit hroom hword => ?_⟩
  · obtain ⟨-, hbusy, hinit, hroom⟩ := canXfer_iff.mp hcan
    rcases hwait with hidle | huninit | hfull
    · simp [hbusy] at hidle
    · simp [hinit] at huninit
    · exact hroom.not_ge hfull
  · have hmove : exec .xfer s = .next (moveWord s w) :=
      execXfer_of_can (canXfer_iff.mpr ⟨halive, hbusy, hinit, hroom⟩) hword
    refine ⟨fun hmore => ?_, fun hlast hnone => ?_, fun hlast hpolicy hpending => ?_⟩
    · rw [hmove, moveWord_of_more w hmore]
      rfl
    · rw [hmove, moveWord_of_last w hlast, completeTransfer_of_not_queued (s := deliverWord s w) hnone,
        deliverWord, hlast]
      rfl
    · rw [hmove, moveWord_of_last w hlast, completeTransfer_of_queued (s := deliverWord s w) hpolicy hpending]
      rfl

end Sys2Proof.Machine
end

section
/-! Sys2Proof/Proofs/Generator: the signal generator, `GEN.HDR`, `GEN.PIX` and `GEN.BIT`, and the bits of a colour word
on the line (O43 to O45, O48).

The condition that enables each step, and one equation of the step where it is enabled. For a whole colour word the
state after `k` of its bits is written out (`afterBits`): each `GEN.BIT` leads from one to the next. -/

namespace Sys2Proof.Machine

/-! ## Enabling conditions -/

/-- Rules R231 and R269. -/
theorem genAtRest_iff {s : State} :
    genAtRest s = true ↔ s.sys.state ≠ .failed ∧ (s.cfg.timed = true → s.env.genUntil ≤ s.env.now) := by
  cases htimed : s.cfg.timed <;> simp [genAtRest, alive_iff, htimed]

theorem canGenHdr_iff {s : State} :
    canGenHdr s = true ↔ genAtRest s = true ∧ s.gen.phase = .hdr ∧ s.gen.inq ≠ [] := by
  simp [canGenHdr, and_assoc, Nat.one_le_iff_ne_zero]

theorem canGenPix_iff {s : State} :
    canGenPix s = true ↔ genAtRest s = true ∧ s.gen.phase = .pix ∧ s.gen.inq ≠ [] := by
  simp [canGenPix, and_assoc, Nat.one_le_iff_ne_zero]

theorem canGenBit_iff {s : State} : canGenBit s = true ↔ genAtRest s = true ∧ s.gen.phase = .bit := by
  simp [canGenBit]

/-! ## One equation per operation and case -/

theorem execGenHdr_of_not_can {s : State} (hcan : ¬ canGenHdr s = true) : execGenHdr s = .next s := if_neg hcan

theorem execGenPix_of_not_can {s : State} (hcan : ¬ canGenPix s = true) : execGenPix s = .next s := if_neg hcan

theorem execGenBit_of_not_can {s : State} (hcan : ¬ canGenBit s = true) : execGenBit s = .next s := if_neg hcan

/-- Rule R181. -/
theorem execGenHdr_of_cons {s : State} {w : Word} {rest : List Word} (hrest : genAtRest s = true)
    (hphase : s.gen.phase = .hdr) (hinq : s.gen.inq = w :: rest) :
    execGenHdr s =
      .next
        { s with gen := { s.gen with inq := rest, bitsLeft := (headerCount w).setWidth 25 + 1, phase := .pix } } := by
  rw [execGenHdr, if_pos (canGenHdr_iff.mpr ⟨hrest, hphase, by simp [hinq]⟩), takeHeader, hinq]

/-- Rule R182. -/
theorem execGenPix_of_cons {s : State} {w : Word} {rest : List Word} (hrest : genAtRest s = true)
    (hphase : s.gen.phase = .pix) (hinq : s.gen.inq = w :: rest) :
    execGenPix s = .next { s with gen := { s.gen with inq := rest, osr := w, osrCnt := 24, phase := .bit } } := by
  rw [execGenPix, if_pos (canGenPix_iff.mpr ⟨hrest, hphase, by simp [hinq]⟩), takeColour, hinq]

/-- Rule R183. -/
theorem execGenBit_of_can {s : State} (hcan : canGenBit s = true) : execGenBit s = .next (sendBit s) := if_pos hcan

/-! ## The header's count (rules R82, R181) -/

@[simp] theorem headerCount_append (count : BitVec 24) (low : Byte) : headerCount (count ++ low) = count := by
  rw [headerCount, BitVec.extractLsb'_append_eq_of_le le_rfl]
  exact BitVec.extractLsb'_eq_self

/-- 25 bits hold the successor of any count. -/
theorem bitsOfCount_toNat (count : BitVec 24) : (count.setWidth 25 + 1).toNat = count.toNat + 1 := by
  bv_omega

/-! ## One bit (rule R183) -/

/-- In the untimed reading a bit writes OUT and the generator's registers. -/
theorem sendBit_of_untimed {s : State} (htimed : s.cfg.timed = false) :
    sendBit s = { s with out := s.out ++ [bitSymbol (s.gen.osr.getLsbD 31)], gen := shiftOut s.gen } := by
  simp [sendBit, holdGenerator, emitSymbol, htimed]

theorem phaseAfterBit_of_frame_end (osrCnt : BitVec 5) : phaseAfterBit 0 osrCnt = .rst := if_pos rfl

theorem phaseAfterBit_of_word_end {bitsLeft : BitVec 25} (hbits : bitsLeft ≠ 0) : phaseAfterBit bitsLeft 0 = .pix := by
  rw [phaseAfterBit, if_neg hbits, if_pos rfl]

theorem phaseAfterBit_of_inside {bitsLeft : BitVec 25} {osrCnt : BitVec 5} (hbits : bitsLeft ≠ 0) (hcnt : osrCnt ≠ 0) :
    phaseAfterBit bitsLeft osrCnt = .bit := by
  rw [phaseAfterBit, if_neg hbits, if_neg hcnt]

/-! ## The bits of a colour word (rules R87, R186) -/

/-- The last of the leading bits is the one that `k` shifts bring to bit 31. -/
theorem leadingBits_succ_last (k : Nat) (w : Word) :
    leadingBits (k + 1) w = leadingBits k w ++ [bitSymbol ((w <<< k).getLsbD 31)] := by
  induction k generalizing w with
  | zero => simp [leadingBits]
  | succ k ih => rw [leadingBits, ih, ← BitVec.shiftLeft_add, Nat.add_comm 1 k, leadingBits, List.cons_append]

/-- The leading bits stand at 31 and below, in this order. -/
theorem leadingBits_eq_map {k : Nat} (w : Word) (hk : k ≤ 32) :
    leadingBits k w = (List.range k).map fun j => bitSymbol (w.getLsbD (31 - j)) := by
  induction k with
  | zero => rfl
  | succ k ih =>
    have hbit : (w <<< k).getLsbD 31 = w.getLsbD (31 - k) := by
      have hlow : ¬ 31 < k := by omega
      rw [BitVec.getLsbD_shiftLeft, decide_eq_false hlow]
      rfl
    rw [leadingBits_succ_last, ih (by omega), hbit, List.range_succ, List.map_append, List.map_singleton]

/-- The state once `k` bits have gone out from `s`, in the untimed reading. -/
def afterBits (s : State) (k : Nat) : State :=
  { s with
    out := s.out ++ leadingBits k s.gen.osr
    gen :=
      { s.gen with
        osr := s.gen.osr <<< k
        osrCnt := s.gen.osrCnt - BitVec.ofNat 5 k
        bitsLeft := s.gen.bitsLeft - BitVec.ofNat 25 k
        phase := phaseAfterBit (s.gen.bitsLeft - BitVec.ofNat 25 k) (s.gen.osrCnt - BitVec.ofNat 5 k) } }

/-- One bit more. -/
theorem sendBit_afterBits {s : State} (htimed : s.cfg.timed = false) (k : Nat) :
    sendBit (afterBits s k) = afterBits s (k + 1) := by
  rw [sendBit_of_untimed (s := afterBits s k) htimed]
  simp only [afterBits, shiftOut, leadingBits_succ_last, BitVec.shiftLeft_add, BitVec.ofNat_add, sub_sub,
    List.append_assoc]
  rfl

/-- `s` is about to send a colour word it has just taken, in the untimed reading, and the frame has its 24 bits left. -/
structure ColourLoaded (s : State) : Prop where
  alive : s.sys.state ≠ .failed
  untimed : s.cfg.timed = false
  phase : s.gen.phase = .bit
  osrCnt : s.gen.osrCnt = 24
  bitsLeft : 24 ≤ s.gen.bitsLeft.toNat

section
variable {s : State} (hs : ColourLoaded s)
include hs

theorem afterBits_bitsLeft_toNat {k : Nat} (hk : k ≤ 24) :
    (afterBits s k).gen.bitsLeft.toNat = s.gen.bitsLeft.toNat - k := by
  have hbits := hs.bitsLeft
  change (s.gen.bitsLeft - BitVec.ofNat 25 k).toNat = _
  bv_omega

theorem afterBits_osrCnt_toNat {k : Nat} (hk : k ≤ 24) : (afterBits s k).gen.osrCnt.toNat = 24 - k := by
  change (s.gen.osrCnt - BitVec.ofNat 5 k).toNat = _
  rw [hs.osrCnt]
  bv_omega

/-- Where the phase stands after `k` bits of the word. -/
theorem afterBits_phase {k : Nat} (hk : k ≤ 24) :
    (k < 24 → (afterBits s k).gen.phase = .bit) ∧
    (k = 24 → s.gen.bitsLeft.toNat = 24 → (afterBits s k).gen.phase = .rst) ∧
    (k = 24 → 24 < s.gen.bitsLeft.toNat → (afterBits s k).gen.phase = .pix) := by
  have hbits := hs.bitsLeft
  have hleft := afterBits_bitsLeft_toNat hs hk
  have hcnt := afterBits_osrCnt_toNat hs hk
  rcases phaseAfterBit_cases (afterBits s k).gen.bitsLeft (afterBits s k).gen.osrCnt with
    ⟨hzero, hphase⟩ | ⟨hmore, hend, hphase⟩ | ⟨hmore, hinside, hphase⟩
  · exact ⟨by omega, fun _ _ => hphase, by omega⟩
  · exact ⟨by omega, by omega, fun _ _ => hphase⟩
  · exact ⟨fun _ => hphase, by omega, by omega⟩

theorem afterBits_zero : afterBits s 0 = s := by
  have hphase : phaseAfterBit (s.gen.bitsLeft - 0) (s.gen.osrCnt - 0) = s.gen.phase :=
    ((afterBits_phase hs (Nat.zero_le 24)).1 (by decide)).trans hs.phase.symm
  simp only [sub_zero] at hphase
  simp [afterBits, leadingBits, hphase]

/-- The steps of the first `k` bits. -/
theorem runInstrs_genBit {k : Nat} (hk : k ≤ 24) :
    runInstrs (List.replicate k .genBit) s = .next (afterBits s k) := by
  induction k with
  | zero => rw [afterBits_zero hs]; rfl
  | succ k ih =>
    have hcan : canGenBit (afterBits s k) = true :=
      canGenBit_iff.mpr ⟨genAtRest_iff.mpr ⟨hs.alive, by simp [afterBits, hs.untimed]⟩,
        (afterBits_phase hs (by omega)).1 (by omega)⟩
    rw [List.replicate_succ', runInstrs_append _ _ _ _ (ih (by omega)), runInstrs, exec, execGenBit_of_can hcan,
      sendBit_afterBits hs.untimed]
    rfl

end

/-! ## The obligations -/

/-- Settles O45: `GEN.BIT` is `sendBit`, its symbol by bit 31 and its phase by the two counts. -/
theorem bitSent : Obligations.BitSent := by
  refine ⟨fun s hphase => execGenBit_of_not_can fun hcan => hphase (canGenBit_iff.mp hcan).2, ?_⟩
  intro s sym phase halive htimed hbit hone hzero hframe hword hinside
  have hcan : canGenBit s = true := canGenBit_iff.mpr ⟨genAtRest_iff.mpr ⟨halive, by simp [htimed]⟩, hbit⟩
  have hsym : bitSymbol (s.gen.osr.getLsbD 31) = sym := by
    cases h31 : s.gen.osr.getLsbD 31
    · exact (hzero h31).symm
    · exact (hone h31).symm
  have hphase : phaseAfterBit (s.gen.bitsLeft - 1) (s.gen.osrCnt - 1) = phase := by
    by_cases hlast : s.gen.bitsLeft = 1
    · rw [hframe hlast, hlast]
      exact phaseAfterBit_of_frame_end _
    · have hmore : s.gen.bitsLeft - 1 ≠ 0 := sub_ne_zero.mpr hlast
      by_cases hend : s.gen.osrCnt = 1
      · rw [hword hlast hend, hend]
        exact phaseAfterBit_of_word_end hmore
      · rw [hinside hlast hend]
        exact phaseAfterBit_of_inside hmore (sub_ne_zero.mpr hend)
  rw [exec, execGenBit_of_can hcan, sendBit_of_untimed htimed, hsym, shiftOut, hphase]

/-- Settles O48: the state after the word's 24 bits is written out. -/
theorem payloadMostSignificantFirst : Obligations.PayloadMostSignificantFirst := by
  rintro s w halive htimed hphase rfl hcnt hbits
  have hs : ColourLoaded s := ⟨halive, htimed, hphase, hcnt, hbits⟩
  obtain ⟨-, hframe, hword⟩ := afterBits_phase hs le_rfl
  have hleft := afterBits_bitsLeft_toNat hs le_rfl
  refine ⟨afterBits s 24, runInstrs_genBit hs le_rfl, ?_, BitVec.eq_of_toNat_eq (afterBits_osrCnt_toNat hs le_rfl),
    by omega, hframe rfl, hword rfl, rfl⟩
  exact congrArg (s.out ++ ·) (leadingBits_eq_map s.gen.osr (by decide))

/-- Settles O43: `GEN.HDR` needs its phase and a word; the count of the word is the header's upper 24 bits. -/
theorem headerTaken : Obligations.HeaderTaken := by
  refine ⟨fun s hwait => execGenHdr_of_not_can fun hcan => ?_, fun s count low rest halive htime hphase hinq => ?_⟩
  · obtain ⟨-, hphase, hword⟩ := canGenHdr_iff.mp hcan
    exact hwait.elim (absurd hphase) hword
  · refine ⟨count.setWidth 25 + 1, bitsOfCount_toNat count, ?_⟩
    rw [exec, execGenHdr_of_cons (genAtRest_iff.mpr ⟨halive, htime⟩) hphase hinq, headerCount_append]

/-- Settles O44: `GEN.PIX` needs its phase and a word. -/
theorem colourTaken : Obligations.ColourTaken := by
  refine ⟨fun s hwait => execGenPix_of_not_can fun hcan => ?_, fun s w rest halive htime hphase hinq => ?_⟩
  · obtain ⟨-, hphase, hword⟩ := canGenPix_iff.mp hcan
    exact hwait.elim (absurd hphase) hword
  · exact execGenPix_of_cons (genAtRest_iff.mpr ⟨halive, htime⟩) hphase hinq

end Sys2Proof.Machine
end

section
/-! Sys2Proof/Proofs/Setup: the host operations `INIT` and `RDCSR` (O12, O13).

One equation per operation and case of its conditions. For `RDCSR` the two facts about the register view on which the
case turns: which numbers name a register, and which registers have no value yet. -/

namespace Sys2Proof.Machine

theorem hostFree_iff {s : State} : hostFree s = true ↔ s.bld.active = false := by simp [hostFree]

/-! ## The operation `INIT` (rule R210) -/

section
variable {s : State} (hfree : hostFree s = true)
include hfree

/-- The channel is checked first, whatever the generator's answer. -/
theorem execInit_of_chan_taken (hreset : s.sys.state = .reset) (genFree : Bool) :
    execInit false genFree s = .next (raiseFault s .noChannel) := by
  simp [execInit, hfree, hreset]

theorem execInit_of_gen_taken (hreset : s.sys.state = .reset) :
    execInit true false s = .next (raiseFault s .noGenerator) := by
  simp [execInit, hfree, hreset]

theorem execInit_of_both_free (hreset : s.sys.state = .reset) :
    execInit true true s = .next (claimResources s) := by
  simp [execInit, hfree, hreset]

theorem execInit_of_ready (hready : s.sys.state = .ready) (chanFree genFree : Bool) :
    execInit chanFree genFree s = .refused .secondInit := by
  simp [execInit, hfree, hready]

theorem execInit_of_failed (hfailed : s.sys.state = .failed) (chanFree genFree : Bool) :
    execInit chanFree genFree s = .next s := by
  simp [execInit, hfree, hfailed]

end

/-! ## The operation `RDCSR` (rules R40, R45, R47, R213) -/

/-- A number up to 12 names a register. -/
theorem exists_csr_of_le {n : Nat} (s : State) (hn : n ≤ 12) : ∃ w, csr s n = some w := by
  interval_cases n <;> exact ⟨_, rfl⟩

/-- No other number does. -/
theorem csr_eq_none_of_gt {n : Nat} (s : State) (hn : 12 < n) : csr s n = none := by
  obtain ⟨k, rfl⟩ := Nat.exists_eq_add_of_le' hn
  rfl

/-- Rules R45 and R47: the registers that may be read before they are written. -/
theorem csrUnspecified_iff {s : State} {n : Nat} :
    csrUnspecified s n = true ↔
      n = 4 ∧ s.env.raddrWritten = false ∨ (n = 6 ∨ n = 7) ∧ s.env.ctxWritten = false := by
  unfold csrUnspecified
  split
  · simp
  · simp
  · simp
  · next h4 h6 h7 => simpa using ⟨fun h => (h4 h).elim, fun h => (h.elim h6 h7).elim⟩

section
variable {s : State} {n : Nat} (hfree : hostFree s = true)
include hfree

theorem execRdcsr_of_value {w : Word} (hcsr : csr s n = some w) (hvalue : ¬ csrUnspecified s n = true) :
    execRdcsr n s = .next (replyWord s w) := by
  simp [execRdcsr, hfree, hcsr, hvalue]

theorem execRdcsr_of_unspecified {w : Word} (hcsr : csr s n = some w) (hnone : csrUnspecified s n = true) :
    execRdcsr n s = .next (replyDraw s) := by
  simp [execRdcsr, hfree, hcsr, hnone]

theorem execRdcsr_of_no_register (hcsr : csr s n = none) : execRdcsr n s = .refused (.noSuchCsr n) := by
  simp [execRdcsr, hfree, hcsr]

end

/-! ## The obligations -/

/-- Settles O12: `INIT` by `sys.state`, and in `RESET` by the two answers. -/
theorem initClaimsOrFaults : Obligations.InitClaimsOrFaults := by
  intro s hinactive
  have hfree : hostFree s = true := hostFree_iff.mpr hinactive
  refine ⟨fun hreset => ⟨execInit_of_chan_taken hfree hreset, execInit_of_gen_taken hfree hreset, fun hclears => ?_⟩,
    fun c g hready => execInit_of_ready hfree hready c g, fun c g hfailed => execInit_of_failed hfree hfailed c g⟩
  rw [exec, execInit_of_both_free hfree hreset, claimResources, hclears, swapAtInit_clears]

/-- Settles O13: `RDCSR` by whether the number names a register and whether the register has a value. -/
theorem rdcsrReplies : Obligations.RdcsrReplies := by
  intro s hinactive
  have hfree : hostFree s = true := hostFree_iff.mpr hinactive
  refine ⟨fun n hn hraddr hctx => ?_, fun n hunwritten => ?_, fun n hn => ?_⟩
  · obtain ⟨w, hw⟩ := exists_csr_of_le s hn
    refine ⟨w, hw, execRdcsr_of_value hfree hw fun hnone => ?_⟩
    rcases csrUnspecified_iff.mp hnone with ⟨h4, hnot⟩ | ⟨h67, hnot⟩
    · simp [hraddr h4] at hnot
    · simp [hctx h67] at hnot
  · obtain ⟨w, hw⟩ := exists_csr_of_le s (n := n) (by omega)
    exact execRdcsr_of_unspecified hfree hw (csrUnspecified_iff.mpr hunwritten)
  · exact execRdcsr_of_no_register hfree (csr_eq_none_of_gt s hn)

end Sys2Proof.Machine
end

section
/-! Sys2Proof/Proofs/Exceptions: the state `FAILED` and the faults that enter it (O55, O56).

Two facts carry both proofs. An operation that is not enabled does nothing, and in `FAILED` only `RESET`, `CONV` and
`RDCSR` are enabled. An operation enters `FAILED` only by raising the fault `faultOf` gives it, the table of rule R232
as a function. -/

namespace Sys2Proof.Machine

variable {s t : State} {i : Instr}

/-! ## In `FAILED` -/

/-- Rule R11 (log 13); a second `INIT` is the one operation that is refused instead. -/
theorem exec_of_not_enabled (hstuck : enabled s i = false) (hinit : ∀ c g, i = .init c g → s.sys.state ≠ .ready) :
    exec i s = .next s := by
  have hguard := ne_true_of_eq_false hstuck
  cases i with
  | reset => cases hstuck
  | init c g =>
    cases hfree : hostFree s with
    | false => exact exec_host_of_not_free hfree rfl
    | true =>
      cases hstate : s.sys.state with
      | reset => simp [enabled, hostOpen, hfree, alive, hstate] at hstuck
      | ready => exact absurd hstate (hinit c g rfl)
      | failed => exact execInit_of_failed hfree hstate c g
  | _ => exact if_neg hguard

/-- Rule R231: what may still be enabled in `FAILED`. -/
theorem enabled_of_failed (hfailed : s.sys.state = .failed) (hen : enabled s i = true) :
    i = .reset ∨ (∃ h x v, i = .conv h x v) ∨ ∃ n, i = .rdcsr n := by
  have hdead : alive s = false := by simp [alive, hfailed]
  have hrest : genAtRest s = false := by simp [genAtRest, hdead]
  cases i with
  | reset => exact .inl rfl
  | conv h x v => exact .inr (.inl ⟨h, x, v, rfl⟩)
  | rdcsr n => exact .inr (.inr ⟨n, rfl⟩)
  | init | build | arm => simp [enabled, hostOpen, hdead] at hen
  | bldHdr | bldPix => simp [enabled, canBldHdr, canBldPix, hdead] at hen
  | tick | irq | swap => simp [enabled, canTick, canIrq, canSwap, hdead] at hen
  | trigger | xfer => simp [enabled, canTrigger, canXfer, hfailed, hdead] at hen
  | genHdr | wHdr => simp [enabled, takesHeader, canGenHdr, hrest] at hen
  | genPix | wPix => simp [enabled, takesColour, canGenPix, hrest] at hen
  | genBit | sym0 | sym1 => simp [enabled, emitsBit, canGenBit, hrest] at hen
  | genRst | symRst => simp [enabled, canGenRst, hrest] at hen

/-! ## Entering `FAILED` -/

/-- Rule R232's table: the fault an operation raises in `RESET` with no build active; `.none` for one that raises no
fault. -/
def faultOf : Instr → Cause
  | .init false _ => .noChannel
  | .init true false => .noGenerator
  | .arm => .genNotInit
  | _ => .none

theorem faultOf_eq_noChannel_iff : faultOf i = .noChannel ↔ ∃ g, i = .init false g := by
  unfold faultOf
  split <;> simp_all

theorem faultOf_eq_noGenerator_iff : faultOf i = .noGenerator ↔ i = .init true false := by
  unfold faultOf
  split <;> simp_all

theorem faultOf_eq_genNotInit_iff : faultOf i = .genNotInit ↔ i = .arm := by
  unfold faultOf
  split <;> simp_all

/-- Every operation the table names raises its fault. -/
theorem exec_raises_faultOf (hinactive : s.bld.active = false) (hreset : s.sys.state = .reset)
    (hnamed : faultOf i ≠ .none) : exec i s = .next (raiseFault s (faultOf i)) := by
  have hfree := hostFree_iff.mpr hinactive
  unfold faultOf at *
  split at hnamed
  · exact execInit_of_chan_taken hfree hreset _
  · exact execInit_of_gen_taken hfree hreset
  · exact execArm_of_reset (hostOpen_iff.mpr ⟨hinactive, by simp [hreset]⟩) hreset
  · exact absurd rfl hnamed

/-- Only `INIT` and `ARM` enter `FAILED`. -/
theorem Effect.init_or_arm_of_fails (h : Effect i s t) (halive : s.sys.state ≠ .failed)
    (hfails : t.sys.state = .failed) : (∃ c g, i = .init c g) ∨ i = .arm := by
  cases h with
  | fault c hi => exact hi
  | reset => cases hfails
  | claim => cases hfails
  | _ => exact absurd (by simpa using hfails) halive

/-- Nothing else enters `FAILED`, and raising the fault is all that happens. -/
theorem eq_raiseFault_of_fails (hexec : exec i s = .next t) (halive : s.sys.state ≠ .failed)
    (hfails : t.sys.state = .failed) :
    s.bld.active = false ∧ s.sys.state = .reset ∧ faultOf i ≠ .none ∧ t = raiseFault s (faultOf i) := by
  rcases (exec_effect hexec).init_or_arm_of_fails halive hfails with ⟨c, g, rfl⟩ | rfl
  · rcases execInit_next hexec with ⟨-, -, -, -, rfl⟩ | ⟨hfree, hreset, rfl, rfl, rfl⟩ | ⟨hfree, hreset, rfl, rfl⟩ | rfl
    · cases hfails
    · exact ⟨hostFree_iff.mp hfree, hreset, by decide, rfl⟩
    · exact ⟨hostFree_iff.mp hfree, hreset, by simp [faultOf], rfl⟩
    · exact absurd hfails halive
  · rcases execArm_next hexec with ⟨hopen, hreset, rfl⟩ | ⟨-, -, -, rfl⟩ | rfl
    · exact ⟨(hostOpen_iff.mp hopen).1, hreset, by decide, rfl⟩
    · exact absurd hfails halive
    · exact absurd hfails halive

/-- An operation ends in `FAILED` with a given cause exactly when the table gives it that fault in `RESET`. -/
theorem fails_with_iff (hexec : exec i s = .next t) (halive : s.sys.state ≠ .failed) {c : Cause} (hc : c ≠ .none) :
    t.sys.state = .failed ∧ t.sys.cause = c ↔ s.bld.active = false ∧ s.sys.state = .reset ∧ faultOf i = c := by
  constructor
  · rintro ⟨hfails, hcause⟩
    obtain ⟨hinactive, hreset, -, rfl⟩ := eq_raiseFault_of_fails hexec halive hfails
    exact ⟨hinactive, hreset, hcause⟩
  · rintro ⟨hinactive, hreset, rfl⟩
    rw [exec_raises_faultOf hinactive hreset hc] at hexec
    obtain rfl := Host.Outcome.next.inj hexec
    exact ⟨rfl, rfl⟩

/-! ## The obligations -/

/-- Settles O55: in `FAILED` an operation is not enabled or only replies; into `FAILED` it raises its fault. -/
theorem failedIsTerminal : Obligations.FailedIsTerminal := by
  intro s t i hexec
  refine ⟨fun hfailed hreset => ?_, fun halive hfails => ?_⟩
  · cases hen : enabled s i with
    | false =>
      rw [exec_of_not_enabled hen fun _ _ _ => by simp [hfailed]] at hexec
      obtain rfl := Host.Outcome.next.inj hexec
      exact ⟨rfl, .inl rfl⟩
    | true =>
      have hreplies := (enabled_of_failed hfailed hen).resolve_left hreset
      refine ⟨?_, .inr hreplies⟩
      rcases hreplies with ⟨h, x, v, rfl⟩ | ⟨n, rfl⟩
      · rcases execConv_next hexec with ⟨_, _, _, -, rfl⟩ | rfl <;> rfl
      · rcases execRdcsr_next hexec with ⟨_, -, -, rfl⟩ | ⟨-, rfl⟩ | rfl <;> rfl
  · obtain ⟨-, -, hnamed, rfl⟩ := eq_raiseFault_of_fails hexec halive hfails
    exact ⟨rfl, hnamed⟩

/-- Settles O56: each row of the table is `fails_with_iff` at its cause, and no fault has the cause `.none`. -/
theorem faultTable : Obligations.FaultTable := by
  refine ⟨⟨rfl, rfl, rfl, rfl⟩, fun s t i hexec halive => ⟨?_, ?_, ?_, ?_⟩⟩
  · rw [fails_with_iff hexec halive (by decide), faultOf_eq_noChannel_iff]
  · rw [fails_with_iff hexec halive (by decide), faultOf_eq_noGenerator_iff]
  · rw [fails_with_iff hexec halive (by decide), faultOf_eq_genNotInit_iff]
  · rintro ⟨hfails, hnone⟩
    obtain ⟨-, -, hnamed, rfl⟩ := eq_raiseFault_of_fails hexec halive hfails
    exact hnamed hnone

end Sys2Proof.Machine
end

section
/-! Sys2Proof/Proofs/Reset: what `RESET` leaves (O8).

The table of rule R261 is `resetBlock`, field by field. What does not stand in the table are the reads of the state
after it: the register view, by number, and the draw a register without a value gives. -/

namespace Sys2Proof.Machine

/-! ## The register view after `RESET` (rules R41 to R51) -/

/-- The one register with reset value 0 whose form depends on the configuration: both of its forms read 0. -/
theorem csrCtxSwap_resetBlock (s : State) : csrCtxSwap (resetBlock s) = 0 := by
  cases hbuffers : (resetBlock s).cfg.buffers with
  | single => exact csrCtxSwap_of_single hbuffers
  | double =>
    calc csrCtxSwap (resetBlock s)
      _ = fieldAt 0 (BitVec.ofBool false) ||| fieldAt 1 (BitVec.ofBool false) := csrCtxSwap_of_double hbuffers
      _ = 0 := by decide

/-- The other registers with reset value 0, right after power-on. -/
theorem csr_reset_eq_zero : ∀ n ∈ [0, 1, 2, 3, 5, 8, 9, 10], csr State.reset n = some 0 := by decide

/-- The registers that rules R41 to R51 give the reset value 0: `CSR[12]` apart, they read as right after power-on,
whatever the configuration. -/
theorem csr_resetBlock_eq_zero (s : State) {n : Nat} (hn : n ∈ [0, 1, 2, 3, 5, 8, 9, 10, 12]) :
    csr (resetBlock s) n = some 0 := by
  obtain hfixed | rfl : n ∈ [0, 1, 2, 3, 5, 8, 9, 10] ∨ n = 12 := by simpa [or_assoc] using hn
  · calc csr (resetBlock s) n
      _ = csr State.reset n := by fin_cases hfixed <;> rfl
      _ = some 0 := csr_reset_eq_zero n hfixed
  · exact congrArg some (csrCtxSwap_resetBlock s)

/-- Rules R45 and R47: `RESET` leaves these three registers without a value. -/
theorem csrUnspecified_resetBlock (s : State) {n : Nat} (hn : n ∈ [4, 6, 7]) :
    csrUnspecified (resetBlock s) n = true := by
  fin_cases hn <;> rfl

/-! ## The obligation -/

/-- Settles O8: the fields are `resetBlock`'s; the line is low because `OUT` is empty; a read of a register without a
value is `execRdcsr_of_unspecified`. -/
theorem resetLeaves : Obligations.ResetLeaves := by
  intro s
  refine ⟨resetBlock s, rfl, rfl, rfl, rfl, rfl, rfl, rfl, rfl, rfl, rfl, rfl, rfl, rfl, rfl, rfl, rfl, rfl, rfl,
    lineLevel_of_out_nil rfl, rfl, fun a => rfl, fun n hn => csr_resetBlock_eq_zero s hn, rfl, fun n hn => ?_⟩
  have hunspecified := csrUnspecified_resetBlock s hn
  obtain ⟨w, hw⟩ := exists_csr_of_le (resetBlock s) (n := n) (by fin_cases hn <;> decide)
  exact execRdcsr_of_unspecified rfl hw hunspecified

end Sys2Proof.Machine
end

section
/-! Sys2Proof/Proofs/Decoder: the decoder is the encoder's inverse (O4, O6), and the table of tags (O5).

One lemma per operand form, each with bytes left after the operand, so that they chain; then the encoding of each
instruction is decoded piece by piece. -/

namespace Sys2Proof

/-! ## Operand bytes (log 4) -/

/-- The fuel is enough where it is at least the number: each byte more divides the number by 128. -/
theorem decodeNat_encodeNatFuel {fuel n : Nat} (hfuel : n ≤ fuel) (rest : List Byte) :
    decodeNat (encodeNatFuel fuel n ++ rest) = .ok (n, rest) := by
  induction fuel generalizing n with
  | zero =>
    obtain rfl : n = 0 := by omega
    rfl
  | succ fuel ih =>
    by_cases hlast : n < 128
    · have hbyte : n % 256 = n := by omega
      simp [encodeNatFuel, hlast, decodeNat, hbyte]
    · have hbyte : (128 + n % 128) % 256 = 128 + n % 128 := by omega
      have hmore : ¬ 128 + n % 128 < 128 := by omega
      have hrest := ih (n := n / 128) (by omega)
      have hsum : n % 128 + 128 * (n / 128) = n := Nat.mod_add_div n 128
      simp [encodeNatFuel, hlast, decodeNat, hbyte, hmore, hrest, hsum]

theorem decodeNat_encodeNat (n : Nat) (rest : List Byte) : decodeNat (encodeNat n ++ rest) = .ok (n, rest) :=
  decodeNat_encodeNatFuel le_rfl rest

/-- Sign, numerator and denominator make up the rational they come from. -/
theorem rationalOf_parts (q : Rat) : rationalOf (decide (q.num < 0)) q.num.natAbs (q.den - 1) = q := by
  have hden : q.den - 1 + 1 = q.den := Nat.sub_add_cancel q.pos
  by_cases hneg : q.num < 0
  · have hnum : -(q.num.natAbs : Int) = q.num := by omega
    simp only [rationalOf, decide_eq_true hneg, hnum, hden, Rat.mkRat_self, if_true]
  · have hnum : (q.num.natAbs : Int) = q.num := by omega
    simp only [rationalOf, decide_eq_false hneg, hnum, hden, Rat.mkRat_self]
    rfl

theorem decodeFraction_encode (q : Rat) (rest : List Byte) :
    decodeFraction (decide (q.num < 0)) (encodeNat q.num.natAbs ++ (encodeNat (q.den - 1) ++ rest)) =
      .ok (.fin q, rest) := by
  simp only [decodeFraction, decodeNat_encodeNat, rationalOf_parts]

theorem decodeNum_encodeNum (x : Operand) (rest : List Byte) : decodeNum (encodeNum x ++ rest) = .ok (x, rest) := by
  cases x with
  | fin q =>
    have hfraction := decodeFraction_encode q rest
    by_cases hneg : q.num < 0
    · simpa [encodeNum, hneg, decodeNum] using hfraction
    · simpa [encodeNum, hneg, decodeNum] using hfraction
  | posInf => rfl
  | negInf => rfl
  | nan => rfl

theorem decodeAnswer_encodeAnswer (free : Bool) (rest : List Byte) :
    decodeAnswer (encodeAnswer free ++ rest) = .ok (free, rest) := by
  cases free <;> rfl

theorem decodeAddr_encodeAddr (a : Addr) : decodeAddr (encodeAddr a) = .ok (a, []) := by
  simp only [encodeAddr, decodeAddr, Machine.word_of_bytes]

/-! ## Operands of an operation -/

theorem decodeTriple_encode (make : Operand → Operand → Operand → Instr) (h s v : Operand) :
    decodeTriple make (encodeNum h ++ (encodeNum s ++ encodeNum v)) = .ok (make h s v, []) := by
  have hlast := decodeNum_encodeNum v []
  rw [List.append_nil] at hlast
  simp only [decodeTriple, decodeNum_encodeNum, hlast]

theorem decodeInit_encode (chanFree genFree : Bool) :
    decodeInit (encodeAnswer chanFree ++ encodeAnswer genFree) = .ok (.init chanFree genFree, []) := by
  cases chanFree <;> cases genFree <;> rfl

theorem decodeTrigger_encode (chan : Nat) (addr : Addr) :
    decodeTrigger (encodeNat chan ++ encodeAddr addr) = .ok (.trigger chan addr, []) := by
  simp only [decodeTrigger, decodeNat_encodeNat, decodeAddr_encodeAddr]

theorem decodeRdcsr_encode (n : Nat) : decodeRdcsr (encodeNat n) = .ok (.rdcsr n, []) := by
  have hlast := decodeNat_encodeNat n []
  rw [List.append_nil] at hlast
  simp only [decodeRdcsr, hlast]

/-! ## Items -/

/-- Bytes that the operation takes whole. -/
theorem decodeItem_op (pos : Position) (bytes : List Byte) {i : Instr} (h : decodeOp bytes = .ok (i, [])) :
    decodeItem pos (.op bytes) = .ok i := by
  simp only [decodeItem, h]

/-- Rule R88: the reserved tags. -/
theorem decodeItem_reservedTag {tag : Byte} (operands : List Byte) (pos : Position) (h : 0x11 ≤ tag.toNat) :
    decodeItem pos (.op (tag :: operands)) = .error (.reservedTag tag) := by
  have hop : decodeOp (tag :: operands) = .error (.reservedTag tag) := by
    unfold decodeOp
    simp only
    split
    case h_18 => rfl
    all_goals omega
  simp only [decodeItem, hop]

/-- Rule R82, both directions. -/
theorem decodeWord_header_append (count : BitVec 24) (low : Byte) : decodeWord .header (count ++ low) = .wHdr count low := by
  have hlow : (count ++ low).extractLsb' 0 8 = low := BitVec.extractLsb'_append_eq_right
  exact congrArg₂ Instr.wHdr (Machine.headerCount_append count low) hlow

theorem encode_decodeWord (pos : Position) (w : Word) : encode (decodeWord pos w) = .word w := by
  cases pos with
  | header =>
    refine congrArg Item.word (BitVec.eq_of_getLsbD_eq fun i hi => ?_)
    rw [BitVec.getLsbD_append]
    by_cases hlow : i < 8
    · simp [hlow]
    · have hhigh : i - 8 < 24 := by omega
      have hsum : 8 + (i - 8) = i := by omega
      simp [hlow, hhigh, hsum]
  | colour => exact congrArg Item.word (Machine.word_of_bytes w)

/-- Rule R83. -/
theorem decodeWord_colour_append (g r b unused : Byte) :
    decodeWord .colour (g ++ r ++ b ++ unused) = .wPix g r b unused := by
  obtain ⟨hunused, hb, hr, hg⟩ := Machine.extractLsb'_append_four unused b r g
  rw [decodeWord]
  exact congr (congr (congrArg₂ Instr.wPix hg hr) hb) hunused

/-! ## The obligations -/

/-- Settles O4: tag by tag, with the lemma for the operands of the tag; words by their fields. -/
theorem decodeEncodeRoundTrip : Obligations.DecodeEncodeRoundTrip := by
  intro i
  cases i with
  | init c g => exact decodeItem_op _ _ (decodeInit_encode c g)
  | conv h s v => exact decodeItem_op _ _ (decodeTriple_encode .conv h s v)
  | build h s v => exact decodeItem_op _ _ (decodeTriple_encode .build h s v)
  | trigger c a => exact decodeItem_op _ _ (decodeTrigger_encode c a)
  | rdcsr n => exact decodeItem_op _ _ (decodeRdcsr_encode n)
  | wHdr count low => exact congrArg Except.ok (decodeWord_header_append count low)
  | wPix g r b u => exact congrArg Except.ok (decodeWord_colour_append g r b u)
  | _ => rfl

/-- Settles O6: a word decodes in either position, and its encoding is the word put together again. -/
theorem wordsDecodeByPosition : Obligations.WordsDecodeByPosition :=
  ⟨fun w => ⟨rfl, rfl, encode_decodeWord .header w, encode_decodeWord .colour w⟩,
    fun _ => ⟨rfl, rfl, rfl, rfl⟩⟩

/-- Settles O5: the table is evaluated row by row, fractions written as `mkRat`; a reserved tag matches none of its
rows. -/
theorem tagsNameOperations : Obligations.TagsNameOperations := by
  have htenth : (1 / 10 : Rat) = mkRat 1 10 := by norm_num [Rat.mkRat_eq_div]
  have hminusHalf : (-1 / 2 : Rat) = mkRat (-1) 2 := by norm_num [Rat.mkRat_eq_div]
  rw [Obligations.TagsNameOperations, htenth, hminusHalf]
  exact ⟨rfl, rfl, rfl, rfl, by decide, rfl, by decide, rfl, rfl, rfl, rfl, rfl, rfl, rfl, rfl, rfl, rfl, rfl, rfl, rfl,
    rfl, rfl, rfl, rfl, rfl, rfl, rfl, rfl, rfl, rfl, rfl, rfl, rfl, rfl,
    fun _ operands pos h => decodeItem_reservedTag operands pos h⟩

end Sys2Proof
end

section
/-! Sys2Proof/Proofs/Registers: every step keeps `RegistersOk` (O11), and the power-on state (O9, and the part of O10
about registers).

One lemma per effect an operation can have (`Effect`), each naming only the ranges and relations the effect touches; the
handler's is put together from those of its lines. -/

namespace Sys2Proof.Machine

variable {s t : State} {i : Instr}

theorem canGenRst_iff : canGenRst s = true ↔ genAtRest s = true ∧ s.gen.phase = .rst := by
  simp [canGenRst]

/-! ## Reset -/

/-- Rule R261: the reset values are within their ranges, whatever the configuration. -/
theorem registersOk_resetWith {c : Config} {env : Env} (hc : configOk c = true) (hout : env.outAt = []) :
    RegistersOk (State.resetWith c env) where
  config := hc
  memory := rfl
  idx := Nat.zero_le _
  building := nofun
  base := nofun
  remaining := Nat.zero_le _
  busy := ⟨nofun, nofun⟩
  pending := nofun
  queue := Nat.zero_le _
  shiftCount := Nat.zero_le _
  bitsLeft := Nat.zero_le _
  phaseBit := nofun
  phasePix := nofun
  phaseIdle := fun _ => rfl
  swapWaits := nofun
  single := fun _ => rfl
  context := nofun
  init := ⟨nofun, nofun⟩
  unclaimed := fun _ => ⟨rfl, rfl, rfl⟩
  armed := nofun
  tick := nofun
  cause := ⟨nofun, fun h => absurd rfl h⟩
  aligned := nofun
  alignedNext := nofun
  starts := fun _ => congrArg List.length hout
  gapFree := fun _ => nofun

namespace RegistersOk

/-! ## What the invariant says in the states an operation is enabled in -/

section
variable (hs : RegistersOk s)
include hs

theorem one_le_n : 1 ≤ s.cfg.n := (n_bounds_of_configOk hs.config).1

theorem frameWords : (frameWords s.cfg).toNat = s.cfg.n + 1 := frameWords_toNat s.cfg hs.config

/-- The block is initialized where the generator has anything to do (rule R194). -/
theorem ready_of_claimed (h : s.dma.busy = true ∨ s.gen.inq ≠ [] ∨ s.gen.phase ≠ .hdr) : s.sys.state = .ready := by
  by_contra hnot
  obtain ⟨hidle, hempty, hphase⟩ := hs.unclaimed hnot
  simp [hidle, hempty, hphase] at h

theorem isBuffer_live : IsBuffer s.cfg (slotAddr s.cfg s.ctx.cur) := isBuffer_slotAddr _ _ hs.single

theorem isBuffer_ctx_addr (hready : s.sys.state = .ready) : IsBuffer s.cfg s.ctx.addr :=
  (hs.context hready).1 ▸ hs.isBuffer_live

theorem isBuffer_base (hactive : s.bld.active = true) : IsBuffer s.cfg s.bld.base :=
  hs.base hactive ▸ isBuffer_buildBase _ _

theorem ready_of_tick (h : s.sch.irqPending = true) : s.sys.state = .ready := hs.armed (hs.tick h)

/-- With an idle engine no request waits. -/
theorem not_pending_of_idle (hidle : s.dma.busy = false) : s.dma.pending = false := by
  by_contra hpending
  simp [(hs.pending (by simpa using hpending)).1] at hidle

theorem idx_succ_toNat (hcan : canBldPix s = true) : (s.bld.idx + 1).toNat = s.bld.idx.toNat + 1 := by
  obtain ⟨-, -, -, hle⟩ := canBldPix_iff.mp hcan
  exact storePixel_idx_toNat (n_bounds_of_configOk hs.config).2 hle

/-! ## The host's operations -/

theorem fault (c : Cause) (hc : c ≠ .none) (hreset : s.sys.state = .reset) : RegistersOk (raiseFault s c) :=
  { hs with
    context := nofun
    init := by
      have hnot : s.gen.init = false := by simpa [hreset] using hs.init
      simp [hnot]
    unclaimed := fun _ => hs.unclaimed (by simp [hreset])
    armed := fun h => absurd (hs.armed h) (by simp [hreset])
    cause := by simpa using hc }

theorem claim (hreset : s.sys.state = .reset) (hfree : hostFree s = true) : RegistersOk (claimResources s) :=
  have hinactive : ¬ s.bld.active = true := by simp [hostFree_iff.mp hfree]
  { hs with
    building := fun h => absurd h hinactive
    base := fun h => absurd h hinactive
    remaining := Nat.zero_le _
    busy := ⟨nofun, nofun⟩
    pending := nofun
    queue := Nat.zero_le _
    shiftCount := Nat.zero_le _
    bitsLeft := Nat.zero_le _
    phaseBit := nofun
    phasePix := nofun
    phaseIdle := fun _ => rfl
    swapWaits := fun h => by
      refine hs.swapWaits ?_
      cases hread : s.cfg.initSwap <;> simp_all
    single := fun _ => rfl
    context := fun _ => ⟨rfl, rfl⟩
    init := ⟨fun _ => rfl, fun _ => rfl⟩
    unclaimed := fun h => absurd rfl h
    armed := fun _ => rfl
    cause := by simpa [hreset] using hs.cause
    aligned := nofun
    alignedNext := nofun
    gapFree := fun _ => nofun }

theorem reply (w : Word) : RegistersOk (replyWord s w) := { hs with }

theorem draw : RegistersOk (replyDraw s) := { hs with }

/-- Rule R130: a build takes a waiting swap back. -/
theorem build (h sat v : Rat) : RegistersOk (startBuild s h sat v) :=
  { hs with
    idx := Nat.zero_le _
    building := fun _ => Nat.zero_le _
    base := fun _ => rfl
    swapWaits := fun hwaits => by
      cases hb : s.cfg.buffers with
      | single => simpa [hb] using hs.swapWaits (by simpa [hb] using hwaits)
      | double => simp [hb] at hwaits }

theorem arm (hopen : hostOpen s = true) (hreset : s.sys.state ≠ .reset) : RegistersOk (armTimer s) :=
  { hs with
    armed := fun _ => by
      obtain ⟨-, halive⟩ := hostOpen_iff.mp hopen
      cases hstate : s.sys.state <;> simp_all
    tick := fun _ => rfl }

/-! ## The builder's steps -/

theorem header : RegistersOk (storeHeader s) :=
  { hs with
    memory := memoryWf_storeWord _ _ _ hs.memory
    idx := Nat.le_add_left 1 _
    building := fun _ => hs.one_le_n }

theorem pixel (hcan : canBldPix s = true) (hmore : s.bld.idx + 1 ≠ Machine.frameWords s.cfg) :
    RegistersOk (storePixel s) :=
  have hidx : (s.bld.idx + 1).toNat = s.bld.idx.toNat + 1 := hs.idx_succ_toNat hcan
  have hle : s.bld.idx.toNat ≤ s.cfg.n := (canBldPix_iff.mp hcan).2.2.2
  { hs with
    memory := memoryWf_storeWord _ _ _ hs.memory
    idx := hidx.trans_le (Nat.succ_le_succ hle)
    building := fun _ => by
      have hne : (s.bld.idx + 1).toNat ≠ s.cfg.n + 1 := fun h =>
        hmore (BitVec.eq_of_toNat_eq (h.trans hs.frameWords.symm))
      simp only [storePixel_bld, storePixel_cfg]
      omega }

theorem lastPixel (hcan : canBldPix s = true) : RegistersOk (finishBuild (storePixel s)) :=
  have hidx : (s.bld.idx + 1).toNat = s.bld.idx.toNat + 1 := hs.idx_succ_toNat hcan
  have hle : s.bld.idx.toNat ≤ s.cfg.n := (canBldPix_iff.mp hcan).2.2.2
  { hs with
    memory := memoryWf_storeWord _ _ _ hs.memory
    idx := hidx.trans_le (Nat.succ_le_succ hle)
    building := nofun
    base := nofun
    swapWaits := fun hwaits => by
      cases hb : s.cfg.buffers with
      | single => simpa [hb] using hs.swapWaits (by simpa [hb] using hwaits)
      | double => exact ⟨hb, rfl⟩ }

/-! ## The timer, the swap, the trigger and the handler -/

theorem raise (hcan : canTick s = true) : RegistersOk (raiseTick s) :=
  { hs with tick := fun _ => (canTick_iff.mp hcan).2.1 }

theorem clear : RegistersOk (clearTick s) := { hs with tick := nofun }

theorem deadline : RegistersOk (nextDeadline s) := { hs with }

theorem swap : RegistersOk (swapSlots s) := by
  rcases swapSlots_cases s with hkeep | ⟨hreq, -, -, hmove⟩
  · rwa [hkeep]
  · obtain ⟨hdouble, hinactive⟩ := hs.swapWaits hreq
    rw [hmove]
    exact
      { hs with
        base := fun h => absurd h (by simp [hinactive])
        swapWaits := nofun
        single := fun h => absurd h (by simp [hdouble])
        context := fun h => ⟨rfl, (hs.context h).2⟩ }

theorem handlerSwap : RegistersOk (handlerSwap s) := by
  rcases handlerSwap_cases s with ⟨-, hkeep⟩ | ⟨-, hswap⟩
  · rwa [hkeep]
  · rw [hswap]
    exact hs.swap

theorem trigger (hready : s.sys.state = .ready) {addr : Addr} (haligned : addr.toNat % 4 = 0) :
    RegistersOk (triggerEngine s addr) := by
  rcases triggerEngine_cases s addr with ⟨hidle, hstart⟩ | ⟨hbusy, hpolicy, -, hqueue⟩ | ⟨-, -, hdrop⟩
  · have hnone : ¬ s.dma.pending = true := by simp [hs.not_pending_of_idle hidle]
    have hwords : (Machine.frameWords s.cfg).toNat = s.cfg.n + 1 := hs.frameWords
    rw [hstart]
    exact
      { hs with
        remaining := hwords.le
        busy := ⟨fun _ => hwords ▸ Nat.succ_pos _, fun _ => rfl⟩
        pending := fun h => absurd h hnone
        unclaimed := fun h => absurd hready h
        aligned := fun _ => haligned }
  · rw [hqueue]
    exact
      { hs with
        pending := fun _ => ⟨hbusy, hpolicy⟩
        alignedNext := fun _ => haligned }
  · rw [hdrop]
    exact { hs with }

/-- Rule R143, line by line. -/
theorem irq (hcan : canIrq s = true) : RegistersOk (tickHandler s) := by
  have hready := hs.ready_of_tick (canIrq_iff.mp hcan).2
  have hswap : RegistersOk (Machine.handlerSwap (clearTick s)) := hs.clear.handlerSwap
  have hready' : (Machine.handlerSwap (clearTick s)).sys.state = .ready := by simpa using hready
  have haligned := (isBuffer_ok _ _ hswap.config (hswap.isBuffer_ctx_addr hready')).1
  exact (hswap.trigger hready' haligned).deadline

/-! ## The transfer -/

theorem xfer (hcan : canXfer s = true) (w : Word) : RegistersOk (moveWord s w) := by
  obtain ⟨-, hbusy, hinit, hroom⟩ := canXfer_iff.mp hcan
  have hwords : (Machine.frameWords s.cfg).toNat = s.cfg.n + 1 := hs.frameWords
  have hpos := hs.busy.mp hbusy
  have hle := hs.remaining
  have hleft : (s.dma.remaining - 1).toNat = s.dma.remaining.toNat - 1 := by bv_omega
  have hready := hs.init.mpr hinit
  have hqueue : (s.gen.inq ++ [w]).length ≤ s.cfg.inDepth := by simpa using hroom
  have haligned : (s.dma.raddr + 4).toNat % 4 = 0 := by
    have := hs.aligned hbusy
    bv_omega
  rcases moveWord_cases s w with ⟨hmore, hnext⟩ | ⟨hlast, hnone, hend⟩ | ⟨hlast, -, hpending, hrestart⟩
  · have hmore' : (s.dma.remaining - 1).toNat ≠ 0 := fun h => hmore (BitVec.eq_of_toNat_eq h)
    rw [hnext]
    exact
      { hs with
        remaining := by simp only [deliverWord_dma, deliverWord_cfg]; omega
        busy := ⟨fun _ => Nat.pos_of_ne_zero hmore', fun _ => hbusy⟩
        queue := hqueue
        unclaimed := fun h => absurd hready h
        aligned := fun _ => haligned }
  · have hnone' : ¬ s.dma.pending = true := fun hpending => by
      simp [hpending, (hs.pending hpending).2] at hnone
    rw [hend]
    exact
      { hs with
        remaining := by simp only [hlast, deliverWord_dma]; exact Nat.zero_le _
        busy := by simp only [hlast, deliverWord_dma]; exact ⟨nofun, nofun⟩
        pending := fun h => absurd h hnone'
        queue := hqueue
        unclaimed := fun h => absurd hready h
        aligned := nofun }
  · rw [hrestart]
    exact
      { hs with
        remaining := hwords.le
        busy := ⟨fun _ => hwords ▸ Nat.succ_pos _, fun _ => hbusy⟩
        pending := nofun
        queue := hqueue
        unclaimed := fun h => absurd hready h
        aligned := fun _ => hs.alignedNext hpending
        alignedNext := nofun }

/-! ## The generator's steps -/

theorem genHdr : RegistersOk (takeHeader s) := by
  rcases takeHeader_cases s with ⟨-, hkeep⟩ | ⟨w, rest, hinq, htake⟩
  · rwa [hkeep]
  · have hready := hs.ready_of_claimed (.inr (.inl (by simp [hinq])))
    have hbits := bitsOfCount_toNat (headerCount w)
    have hcount := (headerCount w).isLt
    have hqueue : rest.length ≤ s.cfg.inDepth := by
      have := hs.queue
      rw [hinq, List.length_cons] at this
      omega
    rw [htake]
    exact
      { hs with
        queue := hqueue
        bitsLeft := by simp only [hbits]; omega
        phaseBit := nofun
        phasePix := fun _ => by simp only [hbits]; omega
        phaseIdle := fun h => by simp at h
        unclaimed := fun h => absurd hready h
        gapFree := fun _ => nofun }

theorem genPix (hphase : s.gen.phase = .pix) : RegistersOk (takeColour s) := by
  rcases takeColour_cases s with ⟨-, hkeep⟩ | ⟨w, rest, hinq, htake⟩
  · rwa [hkeep]
  · have hready := hs.ready_of_claimed (.inr (.inl (by simp [hinq])))
    have hqueue : rest.length ≤ s.cfg.inDepth := by
      have := hs.queue
      rw [hinq, List.length_cons] at this
      omega
    rw [htake]
    exact
      { hs with
        queue := hqueue
        shiftCount := le_rfl
        phaseBit := fun _ => ⟨Nat.le_add_left 1 23, hs.phasePix hphase⟩
        phasePix := nofun
        phaseIdle := fun h => by simp at h
        unclaimed := fun h => absurd hready h
        gapFree := fun _ => nofun }

/-- Where the generator emits a symbol, it gets a start time in the timed reading. -/
theorem starts_append (sym : LineSymbol) (htimed : s.cfg.timed = true) (start : Nat) :
    (if s.cfg.timed then s.env.outAt ++ [start] else s.env.outAt).length = (s.out ++ [sym]).length := by
  simp [htimed, hs.starts htimed]

theorem genBit (hphase : s.gen.phase = .bit) : RegistersOk (sendBit s) := by
  have hready := hs.ready_of_claimed (.inr (.inr (by simp [hphase])))
  obtain ⟨hcnt, hbits⟩ := hs.phaseBit hphase
  have hcntMax := hs.shiftCount
  have hbitsMax := hs.bitsLeft
  have hcnt' : (s.gen.osrCnt - 1).toNat = s.gen.osrCnt.toNat - 1 := by bv_omega
  have hbits' : (s.gen.bitsLeft - 1).toNat = s.gen.bitsLeft.toNat - 1 := by bv_omega
  have hturn := phaseAfterBit_cases (s.gen.bitsLeft - 1) (s.gen.osrCnt - 1)
  exact
    { hs with
      shiftCount := by simp only [sendBit_gen, shiftOut]; omega
      bitsLeft := by simp only [sendBit_gen, shiftOut]; omega
      phaseBit := by
        simp only [sendBit_gen, shiftOut]
        rcases hturn with ⟨-, h⟩ | ⟨-, -, h⟩ | ⟨hb, hc, -⟩
        · simp only [h, reduceCtorEq, false_imp_iff]
        · simp only [h, reduceCtorEq, false_imp_iff]
        · exact fun _ => ⟨Nat.pos_of_ne_zero hc, Nat.pos_of_ne_zero hb⟩
      phasePix := by
        simp only [sendBit_gen, shiftOut]
        rcases hturn with ⟨-, h⟩ | ⟨hb, -, -⟩ | ⟨hb, -, -⟩
        · simp only [h, reduceCtorEq, false_imp_iff]
        · exact fun _ => Nat.pos_of_ne_zero hb
        · exact fun _ => Nat.pos_of_ne_zero hb
      phaseIdle := by
        simp only [sendBit_gen, shiftOut]
        rcases hturn with ⟨hb, -⟩ | ⟨-, -, h⟩ | ⟨-, -, h⟩
        · exact fun _ => BitVec.eq_of_toNat_eq hb
        · simp only [h, reduceCtorEq, false_or, false_imp_iff]
        · simp only [h, reduceCtorEq, false_or, false_imp_iff]
      unclaimed := fun h => absurd hready h
      starts := fun htimed => hs.starts_append _ htimed _
      gapFree := fun htimed _ => by
        have htimed' : s.cfg.timed = true := htimed
        simp [sendBit, htimed'] }

theorem genRst (hphase : s.gen.phase = .rst) : RegistersOk (sendReset s) :=
  have hready := hs.ready_of_claimed (.inr (.inr (by simp [hphase])))
  { hs with
    phaseBit := nofun
    phasePix := nofun
    phaseIdle := fun _ => hs.phaseIdle (.inr hphase)
    unclaimed := fun h => absurd hready h
    starts := fun htimed => hs.starts_append _ htimed _
    gapFree := fun _ => nofun }

/-! ## The step -/

/-- Time passes (rule R185: inside a word no further than the end of the bit being sent). -/
theorem passTime (dt : Nat) : RegistersOk (passTime s dt) :=
  { hs with gapFree := fun htimed hmid => timeAfter_le_genUntil (s := s) htimed hmid (hs.gapFree htimed hmid) dt }

theorem takeEntry : RegistersOk (takeEntry s) := by
  unfold Machine.takeEntry
  split
  · exact { hs with }
  · exact { hs with }

theorem fetched : RegistersOk (fetched s) := hs.takeEntry.passTime _

end

/-- Every operation keeps the invariant. -/
theorem effect (hs : RegistersOk s) (h : Effect i s t) : RegistersOk t := by
  cases h with
  | stuck => exact hs
  | reset => exact registersOk_resetWith hs.config rfl
  | claim _ hreset hfree => exact hs.claim hreset hfree
  | fault c _ hc hreset => exact hs.fault c hc hreset
  | reply w => exact hs.reply w
  | draw => exact hs.draw
  | build x y z => exact hs.build x y z
  | header => exact hs.header
  | pixel _ hcan hmore => exact hs.pixel hcan hmore
  | lastPixel _ hcan => exact hs.lastPixel hcan
  | arm _ hopen hreset => exact hs.arm hopen hreset
  | tick _ hcan => exact hs.raise hcan
  | irq _ hcan => exact hs.irq hcan
  | trigger _ _ _ hcan haligned => exact hs.trigger (by simpa [canTrigger] using hcan) haligned
  | swap => exact hs.swap
  | xfer w _ hcan => exact hs.xfer hcan w
  | genHdr => exact hs.genHdr
  | genPix _ hcan => exact hs.genPix (canGenPix_iff.mp hcan).2.1
  | genBit _ hcan => exact hs.genBit (canGenBit_iff.mp hcan).2
  | genRst _ hcan => exact hs.genRst (canGenRst_iff.mp hcan).2

end RegistersOk

/-! ## The obligations -/

/-- Settles O11: the entry is taken and its time passes, then the operation has one of its effects. -/
theorem stepKeepsRegistersOk : Obligations.StepKeepsRegistersOk := by
  intro s t hs hstep
  obtain ⟨-, i, -, hexec⟩ := step_next hstep
  exact hs.fetched.effect (exec_effect hexec)

/-- Settles O9: the reset values are those of `State.resetWith`, the defaults those of `Config.default`. -/
theorem powerOnState : Obligations.PowerOnState := by
  unfold Obligations.PowerOnState
  decide

end Sys2Proof.Machine
end

section
/-! Sys2Proof/Proofs/Transfers: what an operation does to the words of the buffers (O31), where the transfers stand
(O52), and that with two buffers none is torn (O53).

`Effect.memRead_cases` says once what an operation but `RESET` does to memory: nothing, or one word of the buffer being
built. Word addresses of the buffers are pairwise different (`wordAddr_inj`), and the buffer being built is not the live
one, so the rest is a comparison of word addresses. -/

namespace Sys2Proof.Machine

variable {s t : State} {i : Instr}

/-! ## The words of the buffers -/

/-- Words of buffers at one address are one word of one buffer (rules R60, R64, R67). -/
theorem wordAddr_inj {c : Config} {a b : Addr} {j k : Nat} (hc : configOk c = true) (ha : IsBuffer c a)
    (hb : IsBuffer c b) (hj : j ≤ c.n) (hk : k ≤ c.n) (h : wordAddr a j = wordAddr b k) : a = b ∧ j = k := by
  have haddr := congrArg BitVec.toNat h
  rw [wordAddr_toNat c a j hc ha hj, wordAddr_toNat c b k hc hb hk] at haddr
  have hab : a = b := by
    rcases ha with rfl | ⟨hdouble, rfl⟩ <;> rcases hb with rfl | ⟨hdouble', rfl⟩
    · rfl
    · have := buffers_apart c hc hdouble'
      omega
    · have := buffers_apart c hc hdouble
      omega
    · rfl
  subst hab
  exact ⟨rfl, by omega⟩

/-- A store of one word of a buffer leaves every other word of the buffers. -/
theorem memRead_memWrite_word_ne {c : Config} {a b : Addr} {j k : Nat} (s : State) (w : Word) (hc : configOk c = true)
    (ha : IsBuffer c a) (hb : IsBuffer c b) (hj : j ≤ c.n) (hk : k ≤ c.n) (hne : ¬ (a = b ∧ j = k)) :
    memRead (memWrite s (wordAddr b k) w) (wordAddr a j) = memRead s (wordAddr a j) := by
  have haligned {x : Addr} {m : Nat} (hx : IsBuffer c x) (hm : m ≤ c.n) : (wordAddr x m).toNat % 4 = 0 := by
    have := (isBuffer_ok c x hc hx).1
    rw [wordAddr_toNat c x m hc hx hm]
    omega
  exact memRead_memWrite_aligned s _ _ w (haligned hb hk) (haligned ha hj) fun h => hne (wordAddr_inj hc ha hb hj hk h)

/-- Words of a buffer counted from a word of it. -/
theorem wordAddr_wordAddr (b : Addr) (j k : Nat) : wordAddr (wordAddr b j) k = wordAddr b (j + k) := by
  have hsum : BitVec.ofNat 32 (4 * (j + k)) = BitVec.ofNat 32 (4 * j) + BitVec.ofNat 32 (4 * k) := by
    rw [Nat.mul_add, BitVec.ofNat_add]
  rw [wordAddr, wordAddr, wordAddr, hsum, BitVec.add_assoc]

/-- The next word of a buffer (rule R164). -/
theorem wordAddr_succ (b : Addr) (k : Nat) : wordAddr b (k + 1) = wordAddr b k + 4 := (wordAddr_wordAddr b k 1).symm

/-! ## What an operation does to memory -/

/-- The one word the builder stores in a step (rules R121, R122). -/
structure StoresWord (s t : State) (w : Word) : Prop where
  active : s.bld.active = true
  index : s.bld.idx.toNat ≤ s.cfg.n
  first : s.bld.idx.toNat = 0 → w = header s.cfg.n
  read : ∀ a, memRead t a = memRead (memWrite s (wordAddr s.bld.base s.bld.idx.toNat) w) a

/-- An operation but `RESET` leaves every word, or stores one word of the buffer being built. -/
theorem Effect.memRead_cases (h : Effect i s t) (hreset : i ≠ .reset) :
    (∀ a, memRead t a = memRead s a) ∨ ∃ w, StoresWord s t w := by
  cases h with
  | reset hi => exact absurd hi hreset
  | header _ hcan =>
    obtain ⟨-, hactive, hidx⟩ := canBldHdr_iff.mp hcan
    refine .inr ⟨_, hactive, by simp [hidx], fun _ => rfl, fun a => ?_⟩
    rw [memRead_storeHeader, hidx]
    exact congrArg (fun b => memRead (memWrite s b _) a) (wordAddr_zero _).symm
  | pixel _ hcan =>
    obtain ⟨-, hactive, hone, hle⟩ := canBldPix_iff.mp hcan
    exact .inr ⟨_, hactive, hle, fun h0 => by omega, memRead_storePixel s⟩
  | lastPixel _ hcan =>
    obtain ⟨-, hactive, hone, hle⟩ := canBldPix_iff.mp hcan
    exact .inr ⟨_, hactive, hle, fun h0 => by omega,
      fun a => (memRead_finishBuild _ a).trans (memRead_storePixel s a)⟩
  | genBit => exact .inl (memRead_congr _ _ rfl rfl rfl)
  | genRst => exact .inl (memRead_congr _ _ rfl rfl rfl)
  | _ => exact .inl (memRead_congr _ _ (by simp) (by simp) (by simp))

/-- No operation changes the configuration (rule R8). -/
theorem Effect.cfg (h : Effect i s t) : t.cfg = s.cfg := by
  cases h <;> simp

/-- Every word of the buffers but the one at the builder's index stays. -/
theorem Effect.memRead_word (h : Effect i s t) (hreset : i ≠ .reset) (hs : RegistersOk s) {b : Addr} {k : Nat}
    (hb : IsBuffer s.cfg b) (hk : k ≤ s.cfg.n)
    (hne : s.bld.active = true → ¬ (b = s.bld.base ∧ k = s.bld.idx.toNat)) :
    memRead t (wordAddr b k) = memRead s (wordAddr b k) := by
  rcases h.memRead_cases hreset with hkeep | ⟨w, hstore⟩
  · exact hkeep _
  · rw [hstore.read]
    exact memRead_memWrite_word_ne s w hs.config hb (hs.isBuffer_base hstore.active) hk hstore.index
      (hne hstore.active)

/-- A header in a buffer stays, or is stored again (rule R128). -/
theorem Effect.memRead_header (h : Effect i s t) (hreset : i ≠ .reset) (hs : RegistersOk s) {b : Addr}
    (hb : IsBuffer s.cfg b) (hheader : memRead s b = some (Machine.header s.cfg.n)) :
    memRead t b = some (Machine.header s.cfg.n) := by
  rw [← wordAddr_zero b] at hheader ⊢
  rcases h.memRead_cases hreset with hkeep | ⟨w, hstore⟩
  · rw [hkeep, hheader]
  · have hbase := hs.isBuffer_base hstore.active
    rw [hstore.read]
    by_cases hsame : b = s.bld.base ∧ 0 = s.bld.idx.toNat
    · rw [hsame.1, ← hsame.2, memRead_memWrite_same, hstore.first hsame.2.symm]
    · rw [memRead_memWrite_word_ne s w hs.config hb hbase (Nat.zero_le _) hstore.index hsame, hheader]

/-! ## The live slot is not built in -/

theorem buildBase_ne_slotAddr {c : Config} (hc : configOk c = true) (hdouble : c.buffers = .double) (cur : Slot) :
    slotAddr c cur ≠ buildBase c cur := by
  have hapart := buffers_apart c hc hdouble
  have hne : c.bufAddr ≠ c.bufAddr2 := fun h => by
    rw [h] at hapart
    omega
  rw [buildBase_of_double cur hdouble]
  cases cur
  · exact hne
  · exact hne.symm

/-- With two buffers no operation but `RESET` changes a word of the live slot (rule R272). -/
theorem Effect.memRead_live (h : Effect i s t) (hreset : i ≠ .reset) (hs : RegistersOk s)
    (hdouble : s.cfg.buffers = .double) (hready : s.sys.state = .ready) {k : Nat} (hk : k ≤ s.cfg.n) :
    memRead t (wordAddr s.ctx.addr k) = memRead s (wordAddr s.ctx.addr k) := by
  refine h.memRead_word hreset hs (hs.isBuffer_ctx_addr hready) hk fun hactive hsame => ?_
  refine buildBase_ne_slotAddr hs.config hdouble s.ctx.cur ?_
  rw [← (hs.context hready).1, ← hs.base hactive, hsame.1]

/-- While the engine is busy or a request waits, the swap leaves the live slot. -/
theorem swapSlots_of_busy (h : s.dma.busy = true ∨ s.dma.pending = true) : swapSlots s = s := by
  rcases swapSlots_cases s with hkeep | ⟨-, hidle, hnone, -⟩
  · exact hkeep
  · simp [hidle, hnone] at h

/-- The live slot changes with `INIT`, and with a swap between transfers, only. -/
theorem Effect.ctx_live (h : Effect i s t) (hreset : i ≠ .reset) (hready : s.sys.state = .ready)
    (hbusy : s.dma.busy = true ∨ s.dma.pending = true) : t.ctx.addr = s.ctx.addr ∧ t.ctx.cur = s.ctx.cur := by
  cases h with
  | reset hi => exact absurd hi hreset
  | claim _ hstate => simp [hready] at hstate
  | irq =>
    have hkeep : handlerSwap (clearTick s) = clearTick s := handlerSwap_of_not_due (.inr (.inr hbusy))
    simp [tickHandler, hkeep]
  | swap => simp [swapSlots_of_busy hbusy]
  | _ => simp

/-! ## Where the transfers stand (rules R161, R164, R168) -/

namespace ReadsLiveSlot

/-- An engine that does nothing reads nothing elsewhere. -/
theorem of_idle (hidle : s.dma.busy = false) (hnone : s.dma.pending = false) : ReadsLiveSlot s where
  running := fun h => by simp [hidle] at h
  queued := fun h => by simp [hnone] at h

theorem swap (hr : ReadsLiveSlot s) : ReadsLiveSlot (swapSlots s) := by
  rcases swapSlots_cases s with hkeep | ⟨-, hidle, hnone, -⟩
  · rwa [hkeep]
  · exact of_idle (by simpa using hidle) (by simpa using hnone)

theorem handlerSwap (hr : ReadsLiveSlot s) : ReadsLiveSlot (handlerSwap s) := by
  rcases handlerSwap_cases s with ⟨-, hkeep⟩ | ⟨-, hswap⟩
  · rwa [hkeep]
  · rw [hswap]
    exact hr.swap

section
variable (hs : RegistersOk s) (hr : ReadsLiveSlot s)
include hs hr

theorem trigger : ReadsLiveSlot (triggerEngine s s.ctx.addr) := by
  rcases triggerEngine_cases s s.ctx.addr with ⟨-, hstart⟩ | ⟨-, -, -, hqueue⟩ | ⟨-, -, hdrop⟩
  · have hwords : (frameWords s.cfg).toNat = s.cfg.n + 1 := hs.frameWords
    rw [hstart]
    refine ⟨fun _ => ?_, hr.queued⟩
    simp [hwords, wordAddr_zero]
  · rw [hqueue]
    exact ⟨hr.running, fun _ => rfl⟩
  · rw [hdrop]
    exact ⟨hr.running, hr.queued⟩

theorem irq : ReadsLiveSlot (tickHandler s) := by
  have hclear : ReadsLiveSlot (clearTick s) := ⟨hr.running, hr.queued⟩
  have hdone := hclear.handlerSwap.trigger hs.clear.handlerSwap
  exact ⟨hdone.running, hdone.queued⟩

theorem xfer (hbusy : s.dma.busy = true) (w : Word) : ReadsLiveSlot (moveWord s w) := by
  rcases moveWord_cases s w with ⟨-, hnext⟩ | ⟨-, hnone, hend⟩ | ⟨-, -, hpending, hrestart⟩
  · have hpos := hs.busy.mp hbusy
    have hle := hs.remaining
    have hstep : s.cfg.n + 1 - (s.dma.remaining - 1).toNat = s.cfg.n + 1 - s.dma.remaining.toNat + 1 := by bv_omega
    rw [hnext]
    refine ⟨fun _ => ?_, hr.queued⟩
    simp only [deliverWord_dma, deliverWord_cfg, deliverWord_ctx]
    rw [hstep, wordAddr_succ, ← hr.running hbusy]
  · have hnot : s.dma.pending = false := by
      rcases hnone with hdrop | hnot
      · by_contra hp
        simp [(hs.pending (by simpa using hp)).2] at hdrop
      · exact hnot
    exact of_idle (by simp [hend]) (by simp [hend, hnot])
  · have hwords : (frameWords s.cfg).toNat = s.cfg.n + 1 := hs.frameWords
    rw [hrestart]
    refine ⟨fun _ => ?_, nofun⟩
    simp [hwords, wordAddr_zero, hr.queued hpending]

/-- The running transfer's words are words of the live slot. -/
theorem wordAddr_raddr (hbusy : s.dma.busy = true) {k : Nat} (hk : k < s.dma.remaining.toNat) :
    ∃ j, j ≤ s.cfg.n ∧ wordAddr s.dma.raddr k = wordAddr s.ctx.addr j := by
  have hle := hs.remaining
  refine ⟨s.cfg.n + 1 - s.dma.remaining.toNat + k, by omega, ?_⟩
  rw [hr.running hbusy, wordAddr_wordAddr]

end

end ReadsLiveSlot

/-! ## The obligations -/

/-- Settles O31, by what an operation does to a header. -/
theorem headerKept : Obligations.HeaderKept := by
  intro s t i b hs hb hheader hreset hexec
  have h := exec_effect hexec
  rw [h.cfg]
  exact h.memRead_header hreset hs hb hheader

/-- Settles O52: an effect moves a transfer, swaps between transfers, or leaves engine and live slot alone. -/
theorem transfersStayOnLiveSlot : Obligations.TransfersStayOnLiveSlot := by
  intro s t i hs hr hexec haddr
  cases exec_effect hexec with
  | reset => exact .of_idle rfl rfl
  | claim => exact .of_idle rfl rfl
  | irq => exact hr.irq hs
  | trigger chan addr hi =>
    rw [haddr chan addr hi]
    exact hr.trigger hs
  | swap => exact hr.swap
  | xfer w _ hcan => exact hr.xfer hs (canXfer_iff.mp hcan).2.1 w
  | _ => exact ⟨by simpa using hr.running, by simpa using hr.queued⟩

/-- Settles O53: the words of the transfers are words of the live slot, which no operation writes. -/
theorem noTearWithTwoBuffers : Obligations.NoTearWithTwoBuffers := by
  intro s t i hs hdouble hready hreset hexec
  have h := exec_effect hexec
  have hlive : ∀ k : Nat, k ≤ s.cfg.n → memRead t (wordAddr s.ctx.addr k) = memRead s (wordAddr s.ctx.addr k) :=
    fun k hk => h.memRead_live hreset hs hdouble hready hk
  refine ⟨hlive, h.ctx_live hreset hready, fun hr => ⟨fun k hbusy hk => ?_, fun k hpending hk => ?_⟩⟩
  · obtain ⟨j, hj, heq⟩ := hr.wordAddr_raddr hs hbusy hk
    rw [heq, hlive j hj]
  · rw [hr.queued hpending, hlive k hk]

end Sys2Proof.Machine
end

section
/-! Sys2Proof/Proofs/InStep: the generator stays in step with the engine (O54), and the invariants after power-on (O10).

The words taken are counted modulo the frame length, so three facts about the generator's steps carry the count and the
headers: a bit and the reset interval leave the position where it is, and a word taken moves it by one
(`InStep.of_same_position`, `InStep.of_word_taken`). A header in a buffer, or a first word without a value, stays so
under every operation (`Effect.headerOrNothing`). -/

namespace Sys2Proof.Machine

variable {s t : State} {i : Instr}

/-! ## The header word (rules R82, R85) -/

/-- Rule R85: a frame's header counts its bits less one. -/
theorem headerCount_header_toNat {c : Config} (hc : configOk c = true) :
    (headerCount (header c.n)).toNat = 24 * c.n - 1 := by
  have hn := n_bounds_of_configOk hc
  rw [headerCount, header, BitVec.extractLsb'_toNat, BitVec.toNat_shiftLeft, BitVec.toNat_ofNat,
    Nat.shiftLeft_eq, Nat.shiftRight_eq_div_pow]
  omega

/-- Rule R181: after a frame's header its `24 * N` bits are left. -/
theorem bitsOfHeader_toNat {c : Config} (hc : configOk c = true) :
    ((headerCount (header c.n)).setWidth 25 + 1).toNat = 24 * c.n := by
  have hn := n_bounds_of_configOk hc
  rw [bitsOfCount_toNat, headerCount_header_toNat hc]
  omega

/-! ## The position in the frame (rules R181 to R184) -/

theorem wordsTaken_of_hdr (h : s.gen.phase = .hdr) : wordsTaken s = 0 := by
  simp only [wordsTaken, h]

theorem wordsTaken_of_rst (h : s.gen.phase = .rst) : wordsTaken s = s.cfg.n + 1 := by
  simp only [wordsTaken, h]

theorem wordsTaken_of_pix (h : s.gen.phase = .pix) {left : Nat} (hleft : s.gen.bitsLeft.toNat = 24 * left) :
    wordsTaken s = s.cfg.n + 1 - left := by
  simp only [wordsTaken, h, hleft]
  omega

theorem wordsTaken_of_bit (h : s.gen.phase = .bit) {left : Nat}
    (hleft : s.gen.bitsLeft.toNat = 24 * left + s.gen.osrCnt.toNat) : wordsTaken s = s.cfg.n + 1 - left := by
  simp only [wordsTaken, h, hleft]
  omega

/-- In an idle engine no word of a transfer is delivered. -/
theorem wordsDelivered_of_idle (h : s.dma.busy = false) : wordsDelivered s = 0 := by
  simp [wordsDelivered, h]

theorem wordsDelivered_of_busy (h : s.dma.busy = true) : wordsDelivered s = s.cfg.n + 1 - s.dma.remaining.toNat :=
  if_pos h

/-- A transfer has delivered no word when it starts. -/
theorem wordsDelivered_of_start (hs : RegistersOk s) (h : s.dma.remaining = frameWords s.cfg) :
    wordsDelivered s = 0 := by
  have hwords := hs.frameWords
  unfold wordsDelivered
  split
  · rw [h, hwords]
    omega
  · rfl

/-! ## Headers in memory -/

theorem headerOrNothing_congr (hread : ∀ a, memRead t a = memRead s a) (hcfg : t.cfg = s.cfg) {a : Addr}
    (h : HeaderOrNothing s a) : HeaderOrNothing t a := by
  rwa [HeaderOrNothing, hread, hcfg]

/-- Where a header will be taken, an operation leaves it, or the word without a value, or stores the header. -/
theorem Effect.headerOrNothing (h : Effect i s t) (hreset : i ≠ .reset) (hs : RegistersOk s) {b : Addr}
    (hb : IsBuffer s.cfg b) (hword : HeaderOrNothing s b) : HeaderOrNothing t b := by
  rcases hword with hheader | hnone
  · exact .inl (by rw [h.cfg, h.memRead_header hreset hs hb hheader])
  · rcases h.memRead_cases hreset with hkeep | ⟨w, hstore⟩
    · exact .inr ((hkeep b).trans hnone)
    · by_cases hsame : b = s.bld.base ∧ 0 = s.bld.idx.toNat
      · refine .inl ?_
        rw [hstore.read, ← hsame.2, wordAddr_zero, ← hsame.1, memRead_memWrite_same, hstore.first hsame.2.symm, h.cfg]
      · refine .inr (Eq.trans ?_ hnone)
        have hkeep := memRead_memWrite_word_ne s w hs.config hb (hs.isBuffer_base hstore.active) (Nat.zero_le _)
          hstore.index hsame
        rwa [wordAddr_zero, ← hstore.read] at hkeep

/-- The slot that waits to go live is a buffer. -/
theorem RegistersOk.isBuffer_waiting (hs : RegistersOk s) (hreq : s.ctx.swapReq = true) :
    IsBuffer s.cfg (slotAddr s.cfg (otherSlot s.ctx.cur)) :=
  isBuffer_slotAddr _ _ fun hsingle => by simp [(hs.swapWaits hreq).1] at hsingle

/-- While a build is active no swap waits. -/
theorem RegistersOk.not_waiting (hs : RegistersOk s) (hactive : s.bld.active = true) : s.ctx.swapReq = false := by
  by_contra hreq
  simp [(hs.swapWaits (by simpa using hreq)).2] at hactive

namespace InStep

/-- Where the engine is idle and the generator waits for a frame, only memory and the builder count. -/
theorem of_boundary (hidle : s.dma.busy = false) (hnone : s.dma.pending = false) (hempty : s.gen.inq = [])
    (hphase : s.gen.phase = .hdr) (hticking : s.sch.state = .armed → HeaderAwaits s)
    (hswapping : s.ctx.swapReq = true → memRead s (slotAddr s.cfg (otherSlot s.ctx.cur)) = some (header s.cfg.n))
    (hbuilding : s.bld.active = true → 1 ≤ s.bld.idx.toNat → memRead s s.bld.base = some (header s.cfg.n)) :
    InStep s where
  wholeWords := fun h => by simp [hphase] at h
  partWord := fun h => by simp [hphase] at h
  count := by rw [wordsTaken_of_hdr hphase, wordsDelivered_of_idle hidle, hempty]; rfl
  headers := fun j w h => by simp [hempty] at h
  running := fun h => by simp [hidle] at h
  queued := fun h => by simp [hnone] at h
  ticking := hticking
  swapping := hswapping
  building := hbuilding

/-- Rule R261: a block just reset is in step. -/
theorem resetWith (c : Config) (env : Env) : InStep (State.resetWith c env) :=
  of_boundary rfl rfl rfl rfl nofun nofun nofun

section
variable (hs : RegistersOk s) (hi : InStep s)
include hs hi

/-! ## The host's operations and the builder's -/

theorem claim (hreset : s.sys.state = .reset) : InStep (claimResources s) := by
  refine of_boundary rfl rfl rfl rfl (fun harmed => ?_) (fun hreq => ?_) hi.building
  · have hready := hs.armed harmed
    simp [hreset] at hready
  · obtain ⟨hreq', hcur⟩ : s.ctx.swapReq = true ∧ s.ctx.cur = .zero := by
      cases hread : s.cfg.initSwap with
      | clears => simp [hread] at hreq
      | keeps => simpa [hread] using hreq
    have hwaiting := hi.swapping hreq'
    rwa [hcur] at hwaiting

omit hs in
theorem build (h sat v : Rat) (hlive : s.sch.state = .armed → HeaderOrNothing s s.ctx.addr) :
    InStep (startBuild s h sat v) :=
  { hi with
    ticking := fun harmed => .inl (hlive harmed)
    swapping := fun hreq => by
      cases hb : s.cfg.buffers with
      | single => exact hi.swapping (by simpa [hb] using hreq)
      | double => simp [hb] at hreq
    building := fun _ hidx => by simp at hidx }

/-- A step of the builder leaves engine, generator and the live slot, and every header where it was. -/
theorem of_store (h : Effect i s t) (hreset : i ≠ .reset) (hactive : s.bld.active = true) (hgen : t.gen = s.gen)
    (hdma : t.dma = s.dma) (hsch : t.sch = s.sch) (haddr : t.ctx.addr = s.ctx.addr)
    (hswapping : t.ctx.swapReq = true → memRead t (slotAddr t.cfg (otherSlot t.ctx.cur)) = some (header t.cfg.n))
    (hbuilding : t.bld.active = true → 1 ≤ t.bld.idx.toNat → memRead t t.bld.base = some (header t.cfg.n)) :
    InStep t := by
  have htaken : wordsTaken t = wordsTaken s := by rw [wordsTaken, wordsTaken, hgen, h.cfg]
  have hdelivered : wordsDelivered t = wordsDelivered s := by rw [wordsDelivered, wordsDelivered, hdma, h.cfg]
  exact
    { wholeWords := by rw [hgen, h.cfg]; exact hi.wholeWords
      partWord := by rw [hgen, h.cfg]; exact hi.partWord
      count := by rw [htaken, hdelivered, hgen, h.cfg]; exact hi.count
      headers := by rw [htaken, hgen, h.cfg]; exact hi.headers
      running := fun hbusy hfirst => by
        rw [hdelivered] at hfirst
        rw [hdma] at hbusy ⊢
        obtain ⟨hbuffer, hword⟩ := hi.running hbusy hfirst
        exact ⟨by rwa [h.cfg], h.headerOrNothing hreset hs hbuffer hword⟩
      queued := fun hpending => by
        rw [hdma] at hpending ⊢
        obtain ⟨hbuffer, hword⟩ := hi.queued hpending
        exact ⟨by rwa [h.cfg], h.headerOrNothing hreset hs hbuffer hword⟩
      ticking := fun harmed => by
        rw [hsch] at harmed
        have hlive : HeaderOrNothing s s.ctx.addr :=
          (hi.ticking harmed).resolve_right fun hwait => by simp [hs.not_waiting hactive] at hwait
        refine .inl ?_
        rw [haddr]
        exact h.headerOrNothing hreset hs (hs.isBuffer_ctx_addr (hs.armed harmed)) hlive
      swapping := hswapping
      building := hbuilding }

theorem header (hcan : canBldHdr s = true) : InStep (storeHeader s) := by
  obtain ⟨-, hactive, -⟩ := canBldHdr_iff.mp hcan
  refine hi.of_store hs (.header rfl hcan) nofun hactive rfl rfl rfl rfl (fun hreq => ?_) (fun _ _ => ?_)
  · simp [hs.not_waiting hactive] at hreq
  · exact (memRead_storeHeader s _).trans (memRead_memWrite_same s _ _)

/-- The header a build has stored is there after its next step too. -/
theorem memRead_base (h : Effect i s t) (hcan : canBldPix s = true) (hreset : i ≠ .reset) :
    memRead t s.bld.base = some (Machine.header s.cfg.n) := by
  obtain ⟨-, hactive, hone, -⟩ := canBldPix_iff.mp hcan
  exact h.memRead_header hreset hs (hs.isBuffer_base hactive) (hi.building hactive hone)

theorem pixel (hcan : canBldPix s = true) (hmore : s.bld.idx + 1 ≠ frameWords s.cfg) : InStep (storePixel s) := by
  obtain ⟨-, hactive, -⟩ := canBldPix_iff.mp hcan
  have h : Effect .bldPix s (storePixel s) := .pixel rfl hcan hmore
  have hkept := memRead_base hs hi h hcan nofun
  refine hi.of_store hs h nofun hactive rfl rfl rfl rfl (fun hreq => ?_) (fun _ _ => hkept)
  simp [hs.not_waiting hactive] at hreq

/-- Rule R130: the frame finished waits in the slot it was built in. -/
theorem lastPixel (hcan : canBldPix s = true) (hlast : s.bld.idx + 1 = frameWords s.cfg) :
    InStep (finishBuild (storePixel s)) := by
  obtain ⟨-, hactive, -⟩ := canBldPix_iff.mp hcan
  have h : Effect .bldPix s (finishBuild (storePixel s)) := .lastPixel rfl hcan hlast
  refine hi.of_store hs h nofun hactive rfl rfl rfl rfl (fun hreq => ?_) nofun
  cases hb : s.cfg.buffers with
  | single => simp [hb, hs.not_waiting hactive] at hreq
  | double =>
    have hbase : s.bld.base = slotAddr s.cfg (otherSlot s.ctx.cur) := by
      rw [hs.base hactive, buildBase, hb]
    exact hbase ▸ memRead_base hs hi h hcan nofun

/-! ## The swap, the trigger and the handler -/

omit hs in
theorem swap : InStep (swapSlots s) := by
  rcases swapSlots_cases s with hkeep | ⟨hreq, -, -, hmove⟩
  · rwa [hkeep]
  · rw [hmove]
    exact
      { hi with
        ticking := fun _ => .inl (.inl (hi.swapping hreq))
        swapping := nofun }

omit hs in
theorem handlerSwap : InStep (handlerSwap s) := by
  rcases handlerSwap_cases s with ⟨-, hkeep⟩ | ⟨-, hswap⟩
  · rwa [hkeep]
  · rw [hswap]
    exact hi.swap

/-- After the handler's swap the header is in the live slot, where it is in step at all. -/
theorem live_after_swap (harmed : s.sch.state = .armed) :
    HeaderOrNothing (Machine.handlerSwap s) (Machine.handlerSwap s).ctx.addr := by
  rcases swap_due_or_not s with ⟨hdouble, hreq, hidle, hnone⟩ | hnot
  · have hswap : Machine.handlerSwap s = swapSlots s := by simp only [Machine.handlerSwap, hdouble]
    rw [hswap, swapSlots, if_pos ⟨hreq, hidle, hnone⟩]
    exact .inl (hi.swapping hreq)
  · rw [handlerSwap_of_not_due hnot]
    refine (hi.ticking harmed).resolve_right fun ⟨hreq, hidle, hnone⟩ => ?_
    simp [(hs.swapWaits hreq).1, hreq, hidle, hnone] at hnot

/-- A trigger on the live slot, where a header will be found. -/
theorem trigger (hready : s.sys.state = .ready) (hlive : HeaderOrNothing s s.ctx.addr) :
    InStep (triggerEngine s s.ctx.addr) := by
  have hbuffer := hs.isBuffer_ctx_addr hready
  rcases triggerEngine_cases s s.ctx.addr with ⟨hidle, hstart⟩ | ⟨hbusy, hpolicy, -, hqueue⟩ | ⟨-, -, hdrop⟩
  · have hstarted : RegistersOk (startTransfer s s.ctx.addr) :=
      hstart ▸ hs.trigger hready (isBuffer_ok _ _ hs.config hbuffer).1
    have hnew := wordsDelivered_of_start hstarted rfl
    have hcount := hi.count
    rw [wordsDelivered_of_idle hidle] at hcount
    rw [hstart]
    exact
      { hi with
        count := by rw [hnew]; exact hcount
        running := fun _ _ => ⟨hbuffer, hlive⟩
        ticking := fun _ => .inl hlive }
  · rw [hqueue]
    exact
      { hi with
        queued := fun _ => ⟨hbuffer, hlive⟩
        ticking := fun _ => .inl hlive }
  · rw [hdrop]
    exact { hi with }

theorem irq (hcan : canIrq s = true) : InStep (tickHandler s) := by
  have htick := (canIrq_iff.mp hcan).2
  have harmed : (clearTick s).sch.state = .armed := hs.tick htick
  have hready : (Machine.handlerSwap (clearTick s)).sys.state = .ready := by simpa using hs.ready_of_tick htick
  have hclear : InStep (clearTick s) := { hi with }
  have hdone := hclear.handlerSwap.trigger hs.clear.handlerSwap hready (hclear.live_after_swap hs.clear harmed)
  exact { hdone with }

/-! ## The transfer -/

/-- The word an `XFER` delivers where a header stands in the frame is the header. -/
theorem delivered_header (hbusy : s.dma.busy = true) {w : Word} (hw : memRead s s.dma.raddr = some w)
    (hfirst : (wordsTaken s + s.gen.inq.length) % (s.cfg.n + 1) = 0) : w = Machine.header s.cfg.n := by
  have hpos := hs.busy.mp hbusy
  have hnone : wordsDelivered s = 0 := by
    rw [hi.count, wordsDelivered_of_busy hbusy, Nat.mod_eq_of_lt (by omega)] at hfirst
    rw [wordsDelivered_of_busy hbusy, hfirst]
  rcases (hi.running hbusy hnone).2 with hheader | hnothing
  · exact Option.some.inj (hw.symm.trans hheader)
  · simp [hw] at hnothing

/-- So every word that waits after it is the header where a header stands. -/
theorem headers_append (hbusy : s.dma.busy = true) {w : Word} (hw : memRead s s.dma.raddr = some w) (j : Nat)
    (x : Word) (hj : (s.gen.inq ++ [w])[j]? = some x) (hfirst : (wordsTaken s + j) % (s.cfg.n + 1) = 0) :
    x = Machine.header s.cfg.n := by
  rcases lt_or_ge j s.gen.inq.length with hold | hnew
  · rw [List.getElem?_append_left hold] at hj
    exact hi.headers j x hj hfirst
  · rw [List.getElem?_append_right hnew] at hj
    obtain rfl : j = s.gen.inq.length := by
      by_contra hne
      simp [List.getElem?_eq_none (show [w].length ≤ j - s.gen.inq.length by simp; omega)] at hj
    obtain rfl : w = x := by simpa using hj
    exact hi.delivered_header hs hbusy hw hfirst

omit hs in
/-- One word delivered is one more word, modulo the frame length. -/
theorem count_append (w : Word) :
    (wordsTaken s + (s.gen.inq ++ [w]).length) % (s.cfg.n + 1) = (wordsDelivered s + 1) % (s.cfg.n + 1) := by
  have hcount : wordsTaken s + s.gen.inq.length ≡ wordsDelivered s [MOD s.cfg.n + 1] := hi.count
  rw [List.length_append, ← Nat.add_assoc]
  exact hcount.add_right 1

omit hs hi in
/-- The last word of a transfer makes its words a whole frame. -/
theorem delivered_all (hbusy : s.dma.busy = true) (hlast : s.dma.remaining - 1 = 0) :
    (wordsDelivered s + 1) % (s.cfg.n + 1) = 0 := by
  have hone : s.dma.remaining = 1 := sub_eq_zero.mp hlast
  rw [wordsDelivered_of_busy hbusy, hone]
  exact Nat.mod_self _

theorem xfer (hcan : canXfer s = true) {w : Word} (hw : memRead s s.dma.raddr = some w) : InStep (moveWord s w) := by
  obtain ⟨-, hbusy, -⟩ := canXfer_iff.mp hcan
  have hheaders := hi.headers_append hs hbusy hw
  have hcount := hi.count_append w
  have hpos := hs.busy.mp hbusy
  have hle := hs.remaining
  have hlive (harmed : s.sch.state = .armed) : HeaderOrNothing s s.ctx.addr :=
    (hi.ticking harmed).resolve_right fun ⟨_, hidle, _⟩ => by simp [hbusy] at hidle
  have hdelivered := wordsDelivered_of_busy hbusy
  have hleft : (s.dma.remaining - 1).toNat = s.dma.remaining.toNat - 1 := by bv_omega
  rcases moveWord_cases s w with ⟨-, hnext⟩ | ⟨hlast, -, hend⟩ | ⟨hlast, -, hpending, hrestart⟩
  · have hnew : wordsDelivered (deliverWord s w) = wordsDelivered s + 1 := by
      rw [wordsDelivered_of_busy (s := deliverWord s w) hbusy, hdelivered]
      simp only [deliverWord_dma, deliverWord_cfg]
      omega
    rw [hnext]
    exact
      { hi with
        count := by rw [hnew]; exact hcount
        headers := hheaders
        running := fun _ h => by omega }
  · have hnew : (wordsDelivered s + 1) % (s.cfg.n + 1) = 0 := delivered_all hbusy hlast
    rw [hend]
    exact
      { hi with
        count := hcount.trans hnew
        headers := hheaders
        running := nofun
        ticking := fun harmed => .inl (hlive harmed) }
  · have hnew : (wordsDelivered s + 1) % (s.cfg.n + 1) = 0 := delivered_all hbusy hlast
    have hstart := wordsDelivered_of_start (hrestart ▸ hs.xfer hcan w) rfl
    rw [hrestart]
    exact
      { hi with
        count := by rw [hstart]; exact hcount.trans hnew
        headers := hheaders
        running := fun _ _ => hi.queued hpending
        queued := nofun
        ticking := fun harmed => .inl (hlive harmed) }

/-! ## The generator's steps -/

omit hs in
/-- A word taken moves the position by one. -/
theorem of_word_taken {w : Word} (hinq : s.gen.inq = w :: t.gen.inq) (htaken : wordsTaken t = wordsTaken s + 1) :
    (wordsTaken t + t.gen.inq.length) % (s.cfg.n + 1) = wordsDelivered s % (s.cfg.n + 1) ∧
    ∀ j x, t.gen.inq[j]? = some x → (wordsTaken t + j) % (s.cfg.n + 1) = 0 → x = Machine.header s.cfg.n := by
  refine ⟨?_, fun j x hj hfirst => hi.headers (j + 1) x (by simpa [hinq] using hj) ?_⟩
  · rw [← hi.count, hinq, htaken, List.length_cons, Nat.add_right_comm, Nat.add_assoc]
  · rwa [htaken, Nat.add_right_comm, Nat.add_assoc] at hfirst

theorem genHdr (hphase : s.gen.phase = .hdr) : InStep (takeHeader s) := by
  rcases takeHeader_cases s with ⟨-, hkeep⟩ | ⟨w, rest, hinq, htake⟩
  · rwa [hkeep]
  · have hn := hs.one_le_n
    have hnone := wordsTaken_of_hdr hphase
    obtain rfl : w = Machine.header s.cfg.n := hi.headers 0 w (by simp [hinq]) (by rw [hnone]; exact Nat.zero_mod _)
    have hbits := bitsOfHeader_toNat hs.config
    rw [htake]
    have htaken := wordsTaken_of_pix (s := takeHeader s) (left := s.cfg.n) (by rw [htake]) (by rw [htake]; exact hbits)
    rw [htake] at htaken
    obtain ⟨hcount, hheaders⟩ := hi.of_word_taken hinq (htaken.trans (by rw [hnone]; simp))
    exact
      { hi with
        wholeWords := fun _ => ⟨s.cfg.n, hn, le_rfl, hbits⟩
        partWord := nofun
        count := hcount
        headers := hheaders }

omit hs in
theorem genPix (hphase : s.gen.phase = .pix) : InStep (takeColour s) := by
  rcases takeColour_cases s with ⟨-, hkeep⟩ | ⟨w, rest, hinq, htake⟩
  · rwa [hkeep]
  · obtain ⟨left, hone, hle, hbits⟩ := hi.wholeWords hphase
    have hpart : s.gen.bitsLeft.toNat = 24 * (left - 1) + 24 := by omega
    have htaken := wordsTaken_of_bit (s := takeColour s) (left := left - 1) (by rw [htake]) (by rw [htake]; exact hpart)
    have hbefore := wordsTaken_of_pix hphase hbits
    rw [htake] at htaken ⊢
    obtain ⟨hcount, hheaders⟩ := hi.of_word_taken hinq (htaken.trans (by rw [hbefore]; simp only; omega))
    exact
      { hi with
        wholeWords := nofun
        partWord := fun _ => ⟨left - 1, by simp only; omega, hpart⟩
        count := hcount
        headers := hheaders }

theorem genBit (hphase : s.gen.phase = .bit) : InStep (sendBit s) := by
  obtain ⟨left, hlt, hbits⟩ := hi.partWord hphase
  obtain ⟨hcnt, -⟩ := hs.phaseBit hphase
  have hbefore := wordsTaken_of_bit hphase hbits
  have hcnt' : (sendBit s).gen.osrCnt.toNat = s.gen.osrCnt.toNat - 1 := by
    simp only [sendBit_gen, shiftOut]
    bv_omega
  have hbits' : (sendBit s).gen.bitsLeft.toNat = 24 * left + (sendBit s).gen.osrCnt.toNat := by
    rw [hcnt']
    simp only [sendBit_gen, shiftOut]
    bv_omega
  have hturn : ((sendBit s).gen.phase = .rst ∧ left = 0) ∨
      ((sendBit s).gen.phase = .pix ∧ (sendBit s).gen.bitsLeft.toNat = 24 * left ∧ 1 ≤ left) ∨
      (sendBit s).gen.phase = .bit := by
    rcases phaseAfterBit_cases (sendBit s).gen.bitsLeft (sendBit s).gen.osrCnt with
      ⟨hnone, h⟩ | ⟨hmore, hend, h⟩ | ⟨-, -, h⟩
    · exact .inl ⟨h, by omega⟩
    · exact .inr (.inl ⟨h, by omega, by omega⟩)
    · exact .inr (.inr h)
  have htaken : wordsTaken (sendBit s) = wordsTaken s := by
    rw [hbefore]
    rcases hturn with ⟨h, rfl⟩ | ⟨h, hleft, -⟩ | h
    · exact wordsTaken_of_rst h
    · exact wordsTaken_of_pix h hleft
    · exact wordsTaken_of_bit h hbits'
  exact
    { hi with
      wholeWords := fun hpix => by
        rcases hturn with ⟨h, -⟩ | ⟨-, hleft, hone⟩ | h
        · exact nomatch h.symm.trans hpix
        · exact ⟨left, hone, hlt.le, hleft⟩
        · exact nomatch h.symm.trans hpix
      partWord := fun _ => ⟨left, hlt, hbits'⟩
      count := by rw [htaken]; exact hi.count
      headers := by rw [htaken]; exact hi.headers }

omit hs in
/-- Rule R184: after the reset interval the position is the next frame's first. -/
theorem genRst (hphase : s.gen.phase = .rst) : InStep (sendReset s) := by
  have hbefore := wordsTaken_of_rst hphase
  have hposition (j : Nat) : (0 + j) % (s.cfg.n + 1) = (wordsTaken s + j) % (s.cfg.n + 1) := by
    rw [hbefore, Nat.add_mod_left, Nat.zero_add]
  exact
    { hi with
      wholeWords := nofun
      partWord := nofun
      count := (hposition _).trans hi.count
      headers := fun j w hj hfirst => hi.headers j w hj ((hposition j).symm.trans hfirst) }

end

end InStep

/-! ## The obligations -/

/-- Settles O54, effect by effect. -/
theorem generatorStaysInStep : Obligations.GeneratorStaysInStep := by
  intro s t i hs hi hexec htrigger harm hbuild
  cases exec_effect hexec with
  | stuck => exact hi
  | reset => exact .resetWith _ _
  | claim _ hreset => exact hi.claim hs hreset
  | fault c => exact { hi with }
  | reply w => exact { hi with }
  | draw => exact { hi with }
  | build x y z hinstr => exact hi.build x y z (hbuild hinstr)
  | header _ hcan => exact hi.header hs hcan
  | pixel _ hcan hmore => exact hi.pixel hs hcan hmore
  | lastPixel _ hcan hlast => exact hi.lastPixel hs hcan hlast
  | arm hinstr => exact { hi with ticking := fun _ => harm hinstr }
  | tick => exact { hi with }
  | irq _ hcan => exact hi.irq hs hcan
  | trigger chan addr hinstr => exact absurd hinstr (htrigger chan addr)
  | swap => exact hi.swap
  | xfer w _ hcan hw => exact hi.xfer hs hcan hw
  | genHdr _ hcan => exact hi.genHdr hs (canGenHdr_iff.mp hcan).2.1
  | genPix _ hcan => exact hi.genPix (canGenPix_iff.mp hcan).2.1
  | genBit _ hcan => exact hi.genBit hs (canGenBit_iff.mp hcan).2
  | genRst _ hcan => exact hi.genRst (canGenRst_iff.mp hcan).2

/-- Settles O10: `State.reset` is a block just reset, in a configuration with a meaning. -/
theorem powerOnMeetsInvariants : Obligations.PowerOnMeetsInvariants :=
  ⟨registersOk_resetWith (by decide) rfl, .of_idle rfl rfl, .resetWith _ _⟩

end Sys2Proof.Machine
end

section
/-! Sys2Proof/Proofs/Writers: which operation writes what (O42, O50, O51), and which are enabled (O57, O58).

Each statement about writers is read off the effects an operation can have: an effect names its instructions, and the
laws of State.lean say what it leaves. -/

namespace Sys2Proof.Machine

variable {s t : State} {i : Instr}

/-! ## What the tick handler leaves -/

@[simp] theorem swapSlots_ctx_chan (s : State) : (swapSlots s).ctx.chan = s.ctx.chan := by
  rcases swapSlots_cases s with h | ⟨-, -, -, h⟩ <;> rw [h]

@[simp] theorem handlerSwap_ctx_chan (s : State) : (handlerSwap s).ctx.chan = s.ctx.chan := by
  rcases handlerSwap_cases s with ⟨-, h⟩ | ⟨-, h⟩
  · rw [h]
  · rw [h, swapSlots_ctx_chan]

@[simp] theorem triggerEngine_env_replies (s : State) (addr : Addr) :
    (triggerEngine s addr).env.replies = s.env.replies := by
  rcases triggerEngine_cases s addr with ⟨-, h⟩ | ⟨-, -, -, h⟩ | ⟨-, -, h⟩ <;> rw [h] <;> rfl

@[simp] theorem tickHandler_ctx_chan (s : State) : (tickHandler s).ctx.chan = s.ctx.chan := by simp [tickHandler]

@[simp] theorem tickHandler_env_replies (s : State) : (tickHandler s).env.replies = s.env.replies := by
  simp [tickHandler]

/-! ## What the generator's steps leave -/

@[simp] theorem takeHeader_gen_init (s : State) : (takeHeader s).gen.init = s.gen.init := by
  rcases takeHeader_cases s with ⟨-, h⟩ | ⟨_, _, -, h⟩ <;> rw [h]

@[simp] theorem takeColour_gen_init (s : State) : (takeColour s).gen.init = s.gen.init := by
  rcases takeColour_cases s with ⟨-, h⟩ | ⟨_, _, -, h⟩ <;> rw [h]

@[simp] theorem sendBit_env_replies (s : State) : (sendBit s).env.replies = s.env.replies := rfl

@[simp] theorem sendReset_env_replies (s : State) : (sendReset s).env.replies = s.env.replies := rfl

/-! ## The output trace (rule R36) -/

/-- One symbol goes out, with its start time in the timed reading. -/
structure Emits (s t : State) (sym : LineSymbol) (start : Nat) : Prop where
  cfg : t.cfg = s.cfg
  out : t.out = s.out ++ [sym]
  timed : s.cfg.timed = true → t.env.outAt = s.env.outAt ++ [start]
  untimed : s.cfg.timed = false → t.env.outAt = s.env.outAt

theorem emits_sendBit (s : State) : Emits s (sendBit s) (bitSymbol (s.gen.osr.getLsbD 31)) s.env.now :=
  ⟨rfl, rfl, fun h => by simp [sendBit, h], fun h => by simp [sendBit, h]⟩

theorem emits_sendReset (s : State) : Emits s (sendReset s) .symRst s.env.now :=
  ⟨rfl, rfl, fun h => by simp [sendReset, h], fun h => by simp [sendReset, h]⟩

theorem bitSymbol_ne_symRst (b : Bool) : bitSymbol b ≠ .symRst := by cases b <;> decide

/-- What is observed of OUT is OUT with the start times there are. -/
theorem observedOut_congr (hcfg : t.cfg = s.cfg) (hout : t.out = s.out) (hstarts : t.env.outAt = s.env.outAt) :
    observedOut t = observedOut s := by
  rw [observedOut, observedOut, hcfg, hout, hstarts]

namespace Emits

variable {sym : LineSymbol} {start : Nat} (h : Emits s t sym start)
include h

theorem observed_untimed (htimed : s.cfg.timed = false) : observedOut t = observedOut s ++ [(sym, none)] := by
  simp [observedOut, h.cfg, h.out, htimed, withStarts_append_none]

theorem observed_timed (htimed : s.cfg.timed = true) (hstarts : s.env.outAt.length = s.out.length) :
    observedOut t = observedOut s ++ [(sym, some start)] := by
  simp [observedOut, h.cfg, h.out, h.timed htimed, htimed, withStarts_append_some hstarts]

end Emits

/-- An operation but `RESET` leaves OUT, or is a step of the generator that emits one symbol. -/
theorem Effect.out_cases (h : Effect i s t) (hreset : i ≠ .reset) :
    (t.out = s.out ∧ t.env.outAt = s.env.outAt) ∨
    ∃ sym start, Emits s t sym start ∧
      (sym = .symRst → s.gen.phase = .rst ∧ (i = .genRst ∨ i = .symRst)) ∧
      (sym ≠ .symRst → s.gen.phase = .bit ∧ (i = .genBit ∨ i = .sym0 ∨ i = .sym1)) := by
  cases h with
  | reset hi => exact absurd hi hreset
  | genBit hi hcan =>
    exact .inr ⟨_, _, emits_sendBit s, fun hsym => absurd hsym (bitSymbol_ne_symRst _),
      fun _ => ⟨(canGenBit_iff.mp hcan).2, hi⟩⟩
  | genRst hi hcan =>
    exact .inr ⟨_, _, emits_sendReset s, fun _ => ⟨(canGenRst_iff.mp hcan).2, hi⟩, absurd rfl⟩
  | _ => exact .inl (by simp)

/-! ## The engine -/

/-- An idle engine starts by the handler's trigger or one of its own (rules R144, R233). -/
theorem Effect.starts_engine (h : Effect i s t) (hidle : s.dma.busy = false) (hbusy : t.dma.busy = true) :
    i = .irq ∨ ∃ chan addr, i = .trigger chan addr := by
  cases h with
  | irq hi => exact .inl hi
  | trigger chan addr hi => exact .inr ⟨chan, addr, hi⟩
  | reset => cases hbusy
  | claim => cases hbusy
  | xfer w _ hcan => simp [(canXfer_iff.mp hcan).2.1] at hidle
  | _ => simp [hidle] at hbusy

/-! ## Enabling conditions that never all fail (rule R271) -/

theorem one_le_inDepth_of_configOk {c : Config} (hc : configOk c = true) : 1 ≤ c.inDepth := by
  simp only [configOk, Bool.and_eq_true, decide_eq_true_eq] at hc
  omega

/-- In the untimed reading the generator is always between its steps. -/
theorem genAtRest_of_untimed (htimed : s.cfg.timed = false) (halive : s.sys.state ≠ .failed) : genAtRest s = true :=
  genAtRest_iff.mpr ⟨halive, fun h => by simp [htimed] at h⟩

/-- With a word waiting, the generator's step is enabled in every phase. -/
theorem enabled_genStep (hrest : genAtRest s = true) (hword : s.gen.inq ≠ []) :
    enabled s (genStepInstr s) = true := by
  cases hphase : s.gen.phase with
  | hdr =>
    rw [genStepInstr, hphase]
    exact canGenHdr_iff.mpr ⟨hrest, hphase, hword⟩
  | pix =>
    rw [genStepInstr, hphase]
    exact canGenPix_iff.mpr ⟨hrest, hphase, hword⟩
  | bit =>
    rw [genStepInstr, hphase]
    exact canGenBit_iff.mpr ⟨hrest, hphase⟩
  | rst =>
    rw [genStepInstr, hphase]
    exact canGenRst_iff.mpr ⟨hrest, hphase⟩

/-- An active build's next step is enabled. -/
theorem enabled_bldStep (hs : RegistersOk s) (halive : s.sys.state ≠ .failed) (hactive : s.bld.active = true) :
    enabled s (bldStepInstr s) = true := by
  by_cases hidx : s.bld.idx = 0
  · rw [bldStepInstr, if_pos hidx]
    exact canBldHdr_iff.mpr ⟨halive, hactive, hidx⟩
  · have hone : 1 ≤ s.bld.idx.toNat := Nat.one_le_iff_ne_zero.mpr fun h => hidx (BitVec.eq_of_toNat_eq h)
    rw [bldStepInstr, if_neg hidx]
    exact canBldPix_iff.mpr ⟨halive, hactive, hone, hs.building hactive⟩

/-! ## The obligations -/

/-- Settles O42, by the effects that leave the engine busy. -/
theorem onlyTriggersStartTheEngine : Obligations.OnlyTriggersStartTheEngine :=
  fun _ _ _ hexec hidle hbusy => (exec_effect hexec).starts_engine hidle hbusy

/-- Settles O50: OUT stays and with it what is observed of it, or one symbol is emitted. -/
theorem outAppendOnly : Obligations.OutAppendOnly := by
  intro s t i hexec hreset
  have h := exec_effect hexec
  rcases h.out_cases hreset with ⟨hout, hstarts⟩ | ⟨sym, start, hemits, hrst, hbit⟩
  · exact .inl ⟨hout, hstarts, observedOut_congr h.cfg hout hstarts⟩
  · exact .inr ⟨sym, start, hemits.out, hemits.timed,
      fun htimed => ⟨hemits.untimed htimed, hemits.observed_untimed htimed⟩, hemits.observed_timed, hrst, hbit⟩

/-- Settles O51, effect by effect: each writes what the table allows its instructions. -/
theorem registerWriters : Obligations.RegisterWriters := by
  intro s t i hexec hreset
  cases exec_effect hexec with
  | reset hi => exact absurd hi hreset
  | stuck => simp
  | claim hi => subst hi; simp
  | fault c hi => simpa using fun _ => hi
  | reply w hi => simp [hi]
  | draw hi => simp [hi]
  | build x y z hi => simp [hi]
  | header hi => simp [hi]
  | pixel hi => simp [hi]
  | lastPixel hi => simp [hi]
  | arm hi => simp [hi]
  | tick hi => simp [hi]
  | irq hi => simp [hi]
  | trigger chan addr hi => simp [hi]
  | swap hi => simp [hi]
  | xfer w hi => simp [hi, pushInq]
  | genHdr hi => rcases hi with rfl | ⟨c, l, rfl⟩ <;> simp [Instr.agent]
  | genPix hi => rcases hi with rfl | ⟨g, r, b, u, rfl⟩ <;> simp [Instr.agent]
  | genBit hi => rcases hi with rfl | rfl | rfl <;> simp [Instr.agent, shiftOut]
  | genRst hi => rcases hi with rfl | rfl <;> simp [Instr.agent]

/-- Settles O57, by the enabling conditions. -/
theorem disabledDoesNothing : Obligations.DisabledDoesNothing :=
  fun _ _ hstuck hinit => exec_of_not_enabled hstuck hinit

/-- Settles O58: a request that is not pending can be raised; an engine without room for its word has filled the queue,
and a word that waits is taken. -/
theorem noHang : Obligations.NoHang := by
  intro s hs htimed halive
  have hrest := genAtRest_of_untimed htimed halive
  refine ⟨fun harmed => ?_, fun hbusy => ?_, enabled_genStep hrest, enabled_bldStep hs halive⟩
  · cases hpending : s.sch.irqPending with
    | false => exact .inl (canTick_iff.mpr ⟨halive, harmed, hpending, fun h => by simp [htimed] at h⟩)
    | true => exact .inr (canIrq_iff.mpr ⟨halive, hpending⟩)
  · have hinit := hs.init.mp (hs.ready_of_claimed (.inl hbusy))
    rcases lt_or_ge s.gen.inq.length s.cfg.inDepth with hroom | hfull
    · exact .inl (canXfer_iff.mpr ⟨halive, hbusy, hinit, hroom⟩)
    · refine .inr (enabled_genStep hrest fun hempty => ?_)
      have hdepth := one_le_inDepth_of_configOk hs.config
      simp [hempty] at hfull
      omega

end Sys2Proof.Machine
end

section
/-! Sys2Proof/Proofs/Requests: the step and its schedule (O1, O3), operands (O18), and the requests to the engine and the
swap, each by the conditions it is answered under (O35, O38, O39, O41). -/

namespace Sys2Proof.Machine

variable {s : State}

/-! ## The step (rules R8, R20, R64, R67) -/

/-- An entry that decodes is executed. -/
theorem step_of_ok {i : Instr} (hc : configOk s.cfg = true) (hi : fetchInstr s = .ok i) :
    step s = exec i (fetched s) := by
  simp only [step, stepOnce, hc, hi, if_true]

/-- An entry that names nothing is refused by name. -/
theorem step_of_error {e : DecodeError} (hc : configOk s.cfg = true) (he : fetchInstr s = .error e) :
    step s = .refused (.undecodable e) := by
  simp only [step, stepOnce, hc, he, if_true]

theorem step_of_bad_config (hc : ¬ configOk s.cfg = true) : step s = .refused .badConfig := if_neg hc

theorem timeAfter_takeEntry (s : State) (dt : Nat) : timeAfter (takeEntry s) dt = timeAfter s dt := by
  simp [timeAfter, midWord]

/-- The oldest entry is taken, and its time passes. -/
theorem fetched_of_cons {e : Entry} {rest : List Entry} (hsched : s.env.sched = e :: rest) :
    fetched s = { s with env := { s.env with sched := rest, now := timeAfter s e.dt } } := by
  have htime := timeAfter_takeEntry s e.dt
  simp only [fetched, nextEntry, takeEntry, passTime, hsched] at htime ⊢
  rw [htime]

/-- With no schedule one draw is taken, and the time of the choice passes. -/
theorem fetched_of_nil (hsched : s.env.sched = []) :
    fetched s =
      { s with
        env := { s.env with draws := s.env.draws + 1, now := timeAfter s (Config.freeEntry s.env.draws).dt } } := by
  have htime := timeAfter_takeEntry s (Config.freeEntry s.env.draws).dt
  simp only [fetched, nextEntry, takeEntry, passTime, hsched] at htime ⊢
  rw [htime]

/-! ## Operands (rules R101, R112) -/

theorem operandValue_eq_none {a : Arith} {x : Operand} (hx : x ∈ [Operand.posInf, .negInf, .nan]) :
    operandValue a x = none := by
  fin_cases hx <;> rfl

/-- One operand without a value, and the three have none. -/
theorem operandValues_eq_none {a : Arith} {h s v x : Operand} (hmem : x ∈ [h, s, v])
    (hnone : operandValue a x = none) : operandValues a h s v = none := by
  fin_cases hmem
  · simp [operandValues, hnone]
  · cases hh : operandValue a h <;> simp [operandValues, hnone, hh]
  · cases hh : operandValue a h <;> cases hs : operandValue a s <;> simp [operandValues, hnone, hh, hs]

theorem execConv_of_none {h s' v : Operand} (hfree : hostFree s = true)
    (hnone : operandValues s.cfg.arith h s' v = none) : execConv h s' v s = .refused .nonFinite := by
  simp only [execConv, hfree, hnone, if_true]

theorem execBuild_of_none {h s' v : Operand} (hopen : hostOpen s = true)
    (hnone : operandValues s.cfg.arith h s' v = none) : execBuild h s' v s = .refused .nonFinite := by
  simp only [execBuild, hopen, hnone, if_true]

/-- Below a power of two, in numerator and denominator. -/
theorem natAbs_num_lt_iff (x : Rat) (k : Nat) : x.num.natAbs < 2 ^ k * x.den ↔ |x| < 2 ^ k := by
  have hden : (0 : Rat) < x.den := by exact_mod_cast x.pos
  have habs : |x| = (x.num.natAbs : Rat) / x.den := by
    conv_lhs => rw [← Rat.num_div_den x]
    rw [abs_div, Nat.abs_cast, Nat.cast_natAbs, Int.cast_abs]
  rw [habs, div_lt_iff₀ hden]
  exact_mod_cast Iff.rfl

theorem inRange_iff {a : Arith} {x : Rat} {k : Nat} (hlimit : arithLimit a = some (2 ^ k)) :
    inRange a x = true ↔ |x| < 2 ^ k := by
  simp only [inRange, hlimit, decide_eq_true_eq, natAbs_num_lt_iff]

theorem inRange_f32_iff {x : Rat} : inRange .f32 x = true ↔ |x| < 2 ^ 128 := inRange_iff rfl

theorem inRange_f64_iff {x : Rat} : inRange .f64 x = true ↔ |x| < 2 ^ 1024 := inRange_iff rfl

theorem inRange_zero (a : Arith) : inRange a 0 = true := by
  have hpos (k : Nat) : |(0 : Rat)| < 2 ^ k := by positivity
  cases a with
  | exact => rfl
  | f32 => exact inRange_f32_iff.mpr (hpos 128)
  | f64 => exact inRange_f64_iff.mpr (hpos 1024)

theorem inRange_finiteValue (a : Arith) (x : Rat) : inRange a (finiteValue a x) = true := by
  unfold finiteValue
  split
  · assumption
  · exact inRange_zero a

/-- Every numeral's value is a finite one (log 31). -/
theorem inRange_arithLit (a : Arith) (q : Rat) : inRange a (arithLit a q) = true := by
  unfold arithLit
  split
  · assumption
  · exact inRange_finiteValue _ _

/-! ## The swap as a step of its own (rule R150, log 15) -/

theorem canSwap_iff : canSwap s = true ↔ s.sys.state ≠ .failed ∧ s.cfg.buffers = .double := by
  simp [canSwap, alive_iff]

/-- It is the handler's swap. -/
theorem execSwap_eq_handlerSwap (halive : s.sys.state ≠ .failed) : execSwap s = .next (handlerSwap s) := by
  rcases handlerSwap_cases s with ⟨hsingle, hkeep⟩ | ⟨hdouble, hswap⟩
  · rw [hkeep]
    exact if_neg fun hcan => by simp [canSwap_iff, hsingle] at hcan
  · rw [hswap]
    exact if_pos (canSwap_iff.mpr ⟨halive, hdouble⟩)

/-! ## The trigger as a step of its own (rules R161 to R167, log 12) -/

theorem execTrigger_of_ready {addr : Addr} (hready : s.sys.state = .ready) (haligned : addr.toNat % 4 = 0) :
    execTrigger s.ctx.chan addr s = .next (triggerEngine s addr) := by
  simp [execTrigger, canTrigger, hready, haligned]

/-! ## Words nothing has stored (rule R73) -/

theorem readByte_of_unwritten {a : Addr} (hstop : s.cfg.unwritten = .stop) (hnone : lookupByte s.mem a.toNat = none) :
    readByte s a = none := by
  simp only [readByte, hnone, hstop]

theorem exists_readByte_of_draw (hdraw : s.cfg.unwritten = .draw) (a : Addr) : ∃ b, readByte s a = some b := by
  cases hlook : lookupByte s.mem a.toNat with
  | some b => exact ⟨b, by simp only [readByte, hlook]⟩
  | none => exact ⟨Config.freeByte s.env.epoch a.toNat, by simp only [readByte, hlook, hdraw]⟩

/-- One byte without a value, and the word has none. -/
theorem memRead_eq_none {a : Addr} {j : Nat} (hj : j < 4) (hnone : readByte s (a + BitVec.ofNat 32 j) = none) :
    memRead s a = none := by
  cases hword : memRead s a with
  | none => rfl
  | some w => exact nomatch (readByte_of_memRead hword hj).symm.trans hnone

theorem execXfer_of_none (hcan : canXfer s = true) (hnone : memRead s s.dma.raddr = none) :
    execXfer s = .fault (.unwrittenRead s.dma.raddr) := by
  simp only [execXfer, hcan, hnone, if_true]

/-! ## The obligations -/

/-- Settles O1: the step by its entry, given or chosen. -/
theorem stepRunsDecodedOperation : Obligations.StepRunsDecodedOperation := by
  refine ⟨fun s e rest i hc hsched hdecode => ?_, fun s hc hsched => ?_⟩
  · have hi : fetchInstr s = .ok i := by simpa only [fetchInstr, nextEntry, hsched] using hdecode
    rw [step_of_ok hc hi, fetched_of_cons hsched]
    simp only [timeAfter, midWord, Bool.and_eq_true, decide_eq_true_eq]
  · have hfetch : fetchInstr s = decodeItem (wordPosition s.gen.phase) (Config.freeEntry s.env.draws).item := by
      simp only [fetchInstr, nextEntry, hsched]
    rw [← hfetch]
    cases hi : fetchInstr s with
    | error e => exact step_of_error hc hi
    | ok i => rw [step_of_ok hc hi, fetched_of_nil hsched]

/-- Settles O3: each way a buffer can be wrong contradicts what a configuration with a meaning says of it. -/
theorem stepRefusesBadBuffer : Obligations.StepRefusesBadBuffer := by
  refine fun s => ⟨fun hbad => step_of_bad_config fun hc => ?_, fun hdouble hbad => step_of_bad_config fun hc => ?_⟩
  · obtain ⟨haligned, htop⟩ := isBuffer_ok s.cfg s.cfg.bufAddr hc (.inl rfl)
    rcases hbad with hmis | hlong
    · exact hmis haligned
    · exact hlong.not_ge htop
  · obtain ⟨haligned, htop⟩ := isBuffer_ok s.cfg s.cfg.bufAddr2 hc (.inr ⟨hdouble, rfl⟩)
    rcases hbad with hmis | hlong | ⟨hover, hover'⟩
    · exact hmis haligned
    · exact hlong.not_ge htop
    · exact (buffers_apart s.cfg hc hdouble).elim hover'.not_ge hover.not_ge

/-- Settles O18: an operand without a value is refused, and every numeral has a finite one. -/
theorem nonFiniteRefused : Obligations.NonFiniteRefused := by
  refine ⟨fun st h s v x hinactive hmem hx => ?_, fun q => rfl, fun q hq => ?_, fun q hq => ?_, fun a q => ?_⟩
  · have hnone := operandValues_eq_none hmem (operandValue_eq_none (a := st.cfg.arith) hx)
    exact ⟨execConv_of_none (hostFree_iff.mpr hinactive) hnone,
      fun halive => execBuild_of_none (hostOpen_iff.mpr ⟨hinactive, halive⟩) hnone⟩
  · exact congrArg some (arithLit_of_inRange (inRange_f32_iff.mpr hq))
  · exact congrArg some (arithLit_of_inRange (inRange_f64_iff.mpr hq))
  · have hfinite := inRange_arithLit a q
    refine ⟨arithLit a q, rfl, ?_, ?_⟩
    · rintro rfl
      exact inRange_f32_iff.mp hfinite
    · rintro rfl
      exact inRange_f64_iff.mp hfinite

/-- Settles O35: `SWAP` is the handler's swap. -/
theorem swapMakesSlotLive : Obligations.SwapMakesSlotLive := by
  intro s halive
  have hexec : exec .swap s = .next (handlerSwap s) := execSwap_eq_handlerSwap halive
  refine ⟨fun hdouble hreq hidle hnone => ?_, fun hnot => by rw [hexec, handlerSwap_of_not_due hnot]⟩
  have hctx := handlerSwap_ctx_of_due hdouble hreq hidle hnone
  rw [hexec, handlerSwap_eq_ctx, hctx]
  exact ⟨fun hcur => by simp [hcur], fun hcur => by simp [hcur]⟩

/-- Settles O38: a trigger accepted has the cases of the engine's. -/
theorem triggerStartsDropsOrQueues : Obligations.TriggerStartsDropsOrQueues := by
  intro s addr hready haligned
  have hexec : exec (.trigger s.ctx.chan addr) s = .next (triggerEngine s addr) :=
    execTrigger_of_ready hready haligned
  rw [hexec]
  refine ⟨fun hidle => ?_, fun hbusy hpolicy => ?_, fun hbusy hpolicy hnone => ?_, fun hbusy _ hpending => ?_,
    fun hn => Nat.mod_eq_of_lt (by omega)⟩
  · rw [triggerEngine_of_idle addr hidle]
    rfl
  · rw [triggerEngine_of_discards addr (discardsTrigger_iff.mpr ⟨hbusy, .inl hpolicy⟩)]
    rfl
  · rw [triggerEngine_of_queue addr hbusy hpolicy hnone]
  · rw [triggerEngine_of_discards addr (discardsTrigger_iff.mpr ⟨hbusy, .inr hpending⟩)]
    rfl

/-- Settles O39: the channel is checked before the address. -/
theorem triggerRefusesForeignChannel : Obligations.TriggerRefusesForeignChannel := by
  intro s chan addr hready
  refine ⟨fun hforeign => ?_, fun hown hmisaligned => ?_⟩
  · simp [exec, execTrigger, canTrigger, hready, hforeign]
  · simp [exec, execTrigger, canTrigger, hready, hown, hmisaligned]

/-- Settles O41: the byte nothing has stored leaves the word without a value; draws leave no byte without one. -/
theorem unwrittenWordStopsOrIsDrawn : Obligations.UnwrittenWordStopsOrIsDrawn := by
  refine fun s => ⟨fun hstop halive hbusy hinit hroom j hj hnone => ?_, fun hdraw a => ?_⟩
  · exact execXfer_of_none (canXfer_iff.mpr ⟨halive, hbusy, hinit, hroom⟩)
      (memRead_eq_none hj (readByte_of_unwritten hstop hnone))
  · obtain ⟨b0, h0⟩ := exists_readByte_of_draw hdraw a
    obtain ⟨b1, h1⟩ := exists_readByte_of_draw hdraw (a + 1)
    obtain ⟨b2, h2⟩ := exists_readByte_of_draw hdraw (a + 2)
    obtain ⟨b3, h3⟩ := exists_readByte_of_draw hdraw (a + 3)
    exact ⟨b3 ++ b2 ++ b1 ++ b0, by simp only [memRead, h0, h1, h2, h3]⟩

end Sys2Proof.Machine
end

section
/-! Sys2Proof/Proofs/Line: the generator on the line: a bit in the timed reading (O46), the reset interval (O47), the low
byte of a word (O49), and words and symbols as steps (O60). -/

namespace Sys2Proof.Machine

variable {s : State}

/-! ## One bit (rules R86, R183, R185) -/

/-- The symbol that goes out is the one of bit 31. -/
theorem bitSymbol_osr_eq {sym : LineSymbol} (hone : s.gen.osr.getLsbD 31 = true → sym = .sym1)
    (hzero : s.gen.osr.getLsbD 31 = false → sym = .sym0) : bitSymbol (s.gen.osr.getLsbD 31) = sym := by
  cases h31 : s.gen.osr.getLsbD 31 with
  | true => exact (hone h31).symm
  | false => exact (hzero h31).symm

/-- Where the phase turns, by the counts before the bit. -/
theorem phaseAfterBit_eq {bitsLeft : BitVec 25} {osrCnt : BitVec 5} {phase : Phase} (hframe : bitsLeft = 1 → phase = .rst)
    (hword : bitsLeft ≠ 1 → osrCnt = 1 → phase = .pix) (hinside : bitsLeft ≠ 1 → osrCnt ≠ 1 → phase = .bit) :
    phaseAfterBit (bitsLeft - 1) (osrCnt - 1) = phase := by
  by_cases hlast : bitsLeft = 1
  · rw [hframe hlast, hlast]
    exact phaseAfterBit_of_frame_end _
  · have hmore : bitsLeft - 1 ≠ 0 := sub_ne_zero.mpr hlast
    by_cases hend : osrCnt = 1
    · rw [hword hlast hend, hend]
      exact phaseAfterBit_of_word_end hmore
    · rw [hinside hlast hend]
      exact phaseAfterBit_of_inside hmore (sub_ne_zero.mpr hend)

/-- In the timed reading a bit also records its start and holds the generator. -/
theorem sendBit_of_timed (htimed : s.cfg.timed = true) :
    sendBit s =
      { s with
        out := s.out ++ [bitSymbol (s.gen.osr.getLsbD 31)]
        gen := shiftOut s.gen
        env :=
          { s.env with
            outAt := s.env.outAt ++ [s.env.now]
            genUntil := s.env.now + symbolTime s.cfg (bitSymbol (s.gen.osr.getLsbD 31)) } } := by
  simp [sendBit, holdGenerator, emitSymbol, htimed]

theorem midWord_iff : midWord s = true ↔ s.gen.phase = .bit ∧ s.gen.osrCnt ≠ 24 := by
  simp only [midWord, Bool.and_eq_true, decide_eq_true_eq]

/-- Inside a word the next bit starts where the last one ends (rule R185). -/
theorem RegistersOk.now_eq_genUntil (hs : RegistersOk s) (htimed : s.cfg.timed = true)
    (hdone : s.env.genUntil ≤ s.env.now) (hphase : s.gen.phase = .bit) (hmid : s.gen.osrCnt ≠ 24) :
    s.env.now = s.env.genUntil :=
  (hs.gapFree htimed (midWord_iff.mpr ⟨hphase, hmid⟩)).antisymm hdone

/-! ## The reset interval (rule R184) -/

theorem execGenRst_of_not_can (hcan : ¬ canGenRst s = true) : execGenRst s = .next s := if_neg hcan

theorem execGenRst_of_can (hcan : canGenRst s = true) : execGenRst s = .next (sendReset s) := if_pos hcan

theorem sendReset_of_untimed (htimed : s.cfg.timed = false) :
    sendReset s = { s with out := s.out ++ [.symRst], gen := { s.gen with phase := .hdr } } := by
  simp [sendReset, holdGenerator, emitSymbol, htimed]

theorem sendReset_of_timed (htimed : s.cfg.timed = true) :
    sendReset s =
      { s with
        out := s.out ++ [.symRst]
        gen := { s.gen with phase := .hdr }
        env := { s.env with outAt := s.env.outAt ++ [s.env.now], genUntil := s.env.now + s.cfg.tReset } } := by
  simp [sendReset, holdGenerator, emitSymbol, htimed, symbolTime]

/-! ## The low byte (rule R89) -/

/-- The 24 payload bits are above the low byte. -/
theorem payload_append (top : BitVec 24) (low : Byte) :
    payload (top ++ low) = (List.range 24).map fun j => bitSymbol (top.getLsbD (23 - j)) := by
  rw [payload, leadingBits_eq_map _ (by decide)]
  refine List.map_congr_left fun j hj => congrArg bitSymbol ?_
  have hj' : j < 24 := List.mem_range.mp hj
  have hhigh : ¬ 31 - j < 8 := by omega
  have hsub : 31 - j - 8 = 23 - j := by omega
  rw [BitVec.getLsbD_append, if_neg hhigh, hsub]

/-! ## Words and symbols as steps (log 14) -/

theorem execWHdr_eq_genHdr {count : BitVec 24} {low : Byte} {rest : List Word} (hinq : s.gen.inq = (count ++ low) :: rest) :
    execWHdr count low s = execGenHdr s := by
  have htakes : takesHeader s (count ++ low) = canGenHdr s := by simp [takesHeader, hinq]
  rw [execWHdr, htakes, execGenHdr]

theorem execWPix_eq_genPix {g r b unused : Byte} {rest : List Word}
    (hinq : s.gen.inq = (g ++ r ++ b ++ unused) :: rest) : execWPix g r b unused s = execGenPix s := by
  have htakes : takesColour s (g ++ r ++ b ++ unused) = canGenPix s := by simp [takesColour, hinq]
  rw [execWPix, htakes, execGenPix]

theorem emitsBit_iff {b : Bool} : emitsBit s b = true ↔ canGenBit s = true ∧ s.gen.osr.getLsbD 31 = b := by
  simp only [emitsBit, Bool.and_eq_true, decide_eq_true_eq]

theorem execSym0_of_can (hcan : canGenBit s = true) (hbit : s.gen.osr.getLsbD 31 = false) :
    execSym0 s = .next (sendBit s) := if_pos (emitsBit_iff.mpr ⟨hcan, hbit⟩)

theorem execSym1_of_can (hcan : canGenBit s = true) (hbit : s.gen.osr.getLsbD 31 = true) :
    execSym1 s = .next (sendBit s) := if_pos (emitsBit_iff.mpr ⟨hcan, hbit⟩)

/-! ## The obligations -/

/-- Settles O46: the step is `sendBit`, the level is that of the symbol just sent, and inside a word no time has passed
since the last bit's end. -/
theorem bitTimed : Obligations.BitTimed := by
  rintro s t sym phase high low halive htimed hdone hphase hone hzero hframe hword hinside rfl
  have hcan : canGenBit s = true := canGenBit_iff.mpr ⟨genAtRest_iff.mpr ⟨halive, fun _ => hdone⟩, hphase⟩
  have hsym := bitSymbol_osr_eq (fun h => (hone h).1) (fun h => (hzero h).1)
  have hhigh : highTime s.cfg sym = high := by
    cases h31 : s.gen.osr.getLsbD 31 with
    | true => obtain ⟨rfl, rfl, -⟩ := hone h31; rfl
    | false => obtain ⟨rfl, rfl, -⟩ := hzero h31; rfl
  have htime : symbolTime s.cfg sym = high + low := by
    cases h31 : s.gen.osr.getLsbD 31 with
    | true => obtain ⟨rfl, rfl, rfl⟩ := hone h31; rfl
    | false => obtain ⟨rfl, rfl, rfl⟩ := hzero h31; rfl
  refine ⟨?_, fun later hlater => ?_, fun hs hmid => hs.now_eq_genUntil htimed hdone hphase hmid⟩
  · rw [exec, execGenBit_of_can hcan, sendBit_of_timed htimed, hsym, htime, shiftOut,
      phaseAfterBit_eq hframe hword hinside]
  · rw [← hhigh]
    exact lineLevel_of_last (sym := sym) (start := s.env.now) htimed List.getLast?_concat List.getLast?_concat

/-- Settles O47: the step is `sendReset`, in each reading. -/
theorem resetIntervalSent : Obligations.ResetIntervalSent := by
  refine ⟨fun s hphase => execGenRst_of_not_can fun hcan => hphase (canGenRst_iff.mp hcan).2,
    fun s halive hdone hphase => ?_⟩
  have hexec : exec .genRst s = .next (sendReset s) :=
    execGenRst_of_can (canGenRst_iff.mpr ⟨genAtRest_iff.mpr ⟨halive, hdone⟩, hphase⟩)
  exact ⟨fun htimed => by rw [hexec, sendReset_of_untimed htimed],
    fun htimed => by rw [hexec, sendReset_of_timed htimed]⟩

/-- Settles O49: neither the header's count nor the payload looks at the low byte. -/
theorem lowByteIgnored : Obligations.LowByteIgnored := by
  intro s top low₁ low₂ rest halive hdone
  have htaken (low : Byte) :
      exec .genHdr { s with gen := { s.gen with phase := .hdr, inq := (top ++ low) :: rest } } =
        .next
          { s with
            gen := { s.gen with inq := rest, bitsLeft := (headerCount (top ++ low)).setWidth 25 + 1, phase := .pix } } :=
    execGenHdr_of_cons (genAtRest_iff.mpr ⟨halive, hdone⟩) rfl rfl
  exact ⟨by rw [htaken, htaken, headerCount_append, headerCount_append], by rw [payload_append, payload_append]⟩

/-- Settles O60: each word and symbol is the generator's own step where the generator is about to do just that. -/
theorem wordsAndSymbolsAreGeneratorSteps : Obligations.WordsAndSymbolsAreGeneratorSteps := by
  intro s halive hdone
  have hrest : genAtRest s = true := genAtRest_iff.mpr ⟨halive, hdone⟩
  refine ⟨fun count low rest hphase hinq => ?_, fun g r b unused rest hphase hinq => ?_, fun hphase hbit => ?_,
    fun hphase hbit => ?_, fun hphase => ?_⟩
  · have hsame := execWHdr_eq_genHdr hinq
    have htaken := execGenHdr_of_cons hrest hphase hinq
    rw [headerCount_append] at htaken
    exact ⟨hsame.trans htaken, hsame⟩
  · have hsame := execWPix_eq_genPix hinq
    exact ⟨hsame.trans (execGenPix_of_cons hrest hphase hinq), hsame⟩
  · have hcan := canGenBit_iff.mpr ⟨hrest, hphase⟩
    exact ⟨sendBit s, execSym0_of_can hcan hbit, execGenBit_of_can hcan,
      congrArg (fun b => s.out ++ [bitSymbol b]) hbit, rfl, rfl⟩
  · have hcan := canGenBit_iff.mpr ⟨hrest, hphase⟩
    exact ⟨sendBit s, execSym1_of_can hcan hbit, execGenBit_of_can hcan,
      congrArg (fun b => s.out ++ [bitSymbol b]) hbit, rfl, rfl⟩
  · have hcan := canGenRst_iff.mpr ⟨hrest, hphase⟩
    exact ⟨sendReset s, execGenRst_of_can hcan, execGenRst_of_can hcan, rfl, rfl, rfl⟩

end Sys2Proof.Machine
end

section
/-! Sys2Proof/Proofs/Words: a stored word read back (O7), and the registers of the engine and the Refresh Context, field
by field (O15). -/

namespace Sys2Proof.Machine

/-! ## The registers of rules R44 to R47 -/

/-- Rule R44. -/
theorem csrDmaStatus_eq_fields (s : State) :
    csrDmaStatus s =
      fieldAt 0 (BitVec.ofBool s.dma.busy) |||
        fieldAt 1 (BitVec.ofBool (s.dma.pending && decide (s.cfg.busyPolicy = .queue))) := by
  rw [← bitWord_eq_fieldAt, ← bitWord_shiftLeft, csrDmaStatus]

/-- Rule R46. -/
theorem csrDmaRemain_eq_field (s : State) : csrDmaRemain s = fieldAt 0 s.dma.remaining := setWidth_eq_fieldAt _

/-- A channel identifier that 32 bits do not hold (log 23). -/
theorem csrCtxChan_of_ge {s : State} (h : 2 ^ 32 ≤ s.ctx.chan) : csrCtxChan s = Config.wideChannel s.ctx.chan :=
  if_neg h.not_gt

/-! ## The obligations -/

/-- Settles O7: the word reads back, so its bytes do; no other byte is written. -/
theorem storedWordReadsBack : Obligations.StoredWordReadsBack := by
  intro s a w
  have hword := memRead_memWrite_same s a w
  exact ⟨hword, fun j hj => readByte_of_memRead hword hj, readByte_memWrite_outside s a w⟩

/-- Settles O15: the equations of `CSR[3]` and `CSR[5]`, read field by field, and the two cases of `CSR[6]`. -/
theorem csrEngineAndContext : Obligations.CsrEngineAndContext := by
  intro s
  refine ⟨⟨csrDmaStatus s, rfl, ?_⟩, rfl, ⟨csrDmaRemain s, rfl, ?_⟩,
    ⟨csrCtxChan s, rfl, fun hchan => ?_, csrCtxChan_of_ge⟩, rfl, rfl, rfl⟩
  · rw [csrDmaStatus_eq_fields]
    simp +contextual [BitVec.extractLsb'_or]
  · simp [csrDmaRemain_eq_field]
  · rw [csrCtxChan_of_lt hchan]
    exact Nat.mod_eq_of_lt hchan

end Sys2Proof.Machine
end

section
/-! Sys2Proof/Proofs/Cursor: the hue cursor in exact arithmetic (O30), and the sectors of the converter (O21). -/

namespace Sys2Proof.Machine

/-! ## The cursor (rules R123, R129, R132) -/

/-- A rational in `[0, 720)` on the circle of 360. -/
def foldOnce (x : Rat) : Rat := if 360 ≤ x then x - 360 else x

theorem foldOnce_of_lt {x : Rat} (h : x < 360) : foldOnce x = x := if_neg h.not_ge

theorem foldOnce_of_ge {x : Rat} (h : 360 ≤ x) : foldOnce x = x - 360 := if_pos h

/-- Rule R123 without rounding. -/
theorem advanceCursor_exact (cursor step : Rat) : advanceCursor .exact cursor step = foldOnce (cursor + step) := rfl

theorem hueStep_exact (n : Nat) : hueStep .exact n = 360 / (n : Rat) := rfl

/-- `k` steps of a frame's `n` lead no further than once around. -/
theorem steps_le_circle {n k : Nat} (hn : 1 ≤ n) (hk : k ≤ n) : (k : Rat) * (360 / n) ≤ 360 := by
  have hpos : (0 : Rat) < n := by exact_mod_cast hn
  have hle : (k : Rat) ≤ n := by exact_mod_cast hk
  calc (k : Rat) * (360 / n) ≤ n * (360 / n) := by gcongr
    _ = 360 := mul_div_cancel₀ 360 hpos.ne'

/-- The cursor of pixel `k` is the seed advanced by `k` steps, less one full circle where that reaches it. -/
theorem cursorAt_exact {n k : Nat} {h : Rat} (hn : 1 ≤ n) (hk : k ≤ n) (h360 : h < 360) :
    cursorAt .exact (hueStep .exact n) k h = foldOnce (h + k * (360 / n)) := by
  induction k with
  | zero => simp [cursorAt, foldOnce_of_lt h360]
  | succ k ih =>
    have hend := steps_le_circle hn hk
    have hsum : h + (k + 1 : Nat) * (360 / n) = h + k * (360 / n) + 360 / (n : Rat) := by push_cast; ring
    rw [cursorAt, ih (by omega), advanceCursor_exact, hueStep_exact, hsum]
    rcases lt_or_ge (h + k * (360 / n)) 360 with hlt | hge
    · rw [foldOnce_of_lt hlt]
    · have hstep : (0 : Rat) ≤ 360 / n := by positivity
      rw [foldOnce_of_ge hge, foldOnce_of_lt (by linarith), foldOnce_of_ge (by linarith)]
      ring

/-- From pixel 1 on the seeds 360 and 0 have one cursor, with two pixels or more. -/
theorem cursorAt_exact_fullCircle {n : Nat} (hn : 2 ≤ n) (k : Nat) :
    cursorAt .exact (hueStep .exact n) (k + 1) 360 = cursorAt .exact (hueStep .exact n) (k + 1) 0 := by
  induction k with
  | zero =>
    have htwo : (2 : Rat) ≤ n := by exact_mod_cast hn
    have hlt : (360 : Rat) / n < 360 := by
      rw [div_lt_iff₀ (by linarith)]
      linarith
    have hpos : (0 : Rat) ≤ 360 / n := by positivity
    simp only [cursorAt, advanceCursor_exact, hueStep_exact]
    rw [foldOnce_of_ge (by linarith), foldOnce_of_lt (by linarith)]
    ring
  | succ k ih => rw [cursorAt, ih, ← cursorAt]

/-! ## The sector table (rules R104 to R108) -/

/-- A colour inside the nominal domain, by the sector of its hue. -/
theorem conv_of_sector {a : Arith} {h s v : Rat} (hh : 0 ≤ h ∧ h ≤ 360) (hs : 0 < s ∧ s ≤ 1) (hv : 0 ≤ v ∧ v ≤ 1)
    {sector : Int} (hsector : hueSector a (foldHue h) % 6 = sector) :
    conv a h s v =
      packRgb a
        (selectRgb sector v (mixP a s v) (mixQ a s v (hueFraction a (foldHue h)))
          (mixT a s v (hueFraction a (foldHue h)))) := by
  rw [conv_of_sat_ne_zero a hs.1.ne' hv ⟨hs.1.le, hs.2⟩ hh, convColour, hsector]

/-- In `EXACT` the sector is that of the hue range `[60k, 60(k+1))`. -/
theorem floor_of_hue_range {h : Rat} {k : Nat} (hlow : 60 * (k : Rat) ≤ h) (hhigh : h < 60 * ((k : Rat) + 1)) :
    (h / 60).floor = k := by
  have hle : (k : Rat) ≤ h / 60 := by linarith
  have hlt : h / 60 < (k : Rat) + 1 := by linarith
  exact Int.floor_eq_iff.mpr ⟨by exact_mod_cast hle, by exact_mod_cast hlt⟩

/-! ## The obligations -/

/-- Settles O30: the cursor in closed form; the seed 360 is the seed 0 after one step of two or more. -/
theorem cursorWrapsOnce : Obligations.CursorWrapsOnce := by
  rintro n k h x hn hk h0 h360 rfl
  have hcursor := cursorAt_exact hn hk h360
  have hpos : (n : Rat) ≠ 0 := by positivity
  have hround {seed : Rat} (h0 : 0 ≤ seed) (h360 : seed < 360) : cursorAt .exact (hueStep .exact n) n seed = seed := by
    rw [cursorAt_exact hn le_rfl h360, mul_div_cancel₀ 360 hpos, foldOnce_of_ge (by linarith), add_sub_cancel_right]
  refine ⟨fun hlt => hcursor.trans (foldOnce_of_lt hlt), fun hge => hcursor.trans (foldOnce_of_ge hge),
    hround h0 h360, fun htwo => ?_, ?_⟩
  · obtain ⟨m, rfl⟩ := Nat.exists_eq_add_of_le' hn
    rw [cursorAt_exact_fullCircle htwo]
    exact hround le_rfl (by norm_num)
  · rintro rfl
    rw [cursorAt, cursorAt, advanceCursor_exact, hueStep_exact, foldOnce_of_ge (by norm_num)]
    norm_num

/-- Settles O21: the selection by sector, and the exact formulas where nothing is rounded. -/
theorem convSectors : Obligations.ConvSectors := by
  rintro a h s v hs f p q t byte h0 h360 hs0 hs1 hv0 hv1 rfl rfl rfl rfl rfl hbyte
  have hconv {sector : Int} (hsector : hueSector a (foldHue h) % 6 = sector) :=
    conv_of_sector ⟨h0, h360⟩ ⟨hs0, hs1⟩ ⟨hv0, hv1⟩ hsector
  simp only [hbyte]
  refine ⟨hconv, hconv, hconv, hconv, hconv, hconv, ?_⟩
  rintro rfl k hk hlow hhigh
  have hne : h ≠ 360 := by
    have hk' : (k : Rat) ≤ 5 := by exact_mod_cast Nat.lt_succ_iff.mp hk
    rintro rfl
    linarith
  have hfloor : (arithDiv .exact h 60).floor = k := floor_of_hue_range hlow hhigh
  rw [if_neg hne, hfloor, Int.cast_natCast]
  exact ⟨rfl, rfl, rfl, rfl, rfl, fun _ => rfl⟩

end Sys2Proof.Machine
end

section
/-! Sys2Proof/Proofs/Rounding: the rounding of the binary formats is to nearest, ties to even (O24).

A positive fraction is rounded to a multiple `m * 2^u` of a power of two. `m` is an integer nearest to the fraction in
units of `2^u` (`roundHalfEven_nearest`), and `2^u` is the distance of the format's values there: values of the format
that are no multiples of it lie below the fraction's power of two, which is itself a multiple, and so no nearer. -/

namespace Sys2Proof.Machine

/-! ## The nearest integer -/

section
variable {num den : Nat} (hden : 0 < den)
include hden

omit hden in
/-- The integer is the quotient, or its successor where the remainder is half the divisor or more. -/
theorem roundHalfEven_cases :
    (roundHalfEven num den = num / den ∧ 2 * (num % den) ≤ den ∧ (2 * (num % den) = den → 2 ∣ num / den)) ∨
    (roundHalfEven num den = num / den + 1 ∧ den ≤ 2 * (num % den) ∧
      (2 * (num % den) = den → 2 ∣ num / den + 1)) := by
  simp only [roundHalfEven]
  split_ifs
  · exact .inl ⟨rfl, by omega, by omega⟩
  · exact .inr ⟨rfl, by omega, by omega⟩
  · exact .inl ⟨rfl, by omega, by omega⟩
  · exact .inr ⟨rfl, by omega, by omega⟩

theorem le_roundHalfEven {m : Nat} (h : m * den ≤ num) : m ≤ roundHalfEven num den := by
  have hle : m ≤ num / den := (Nat.le_div_iff_mul_le hden).mpr h
  rcases roundHalfEven_cases (num := num) (den := den) with ⟨heq, -⟩ | ⟨heq, -⟩ <;> omega

theorem roundHalfEven_le {m : Nat} (h : num < m * den) : roundHalfEven num den ≤ m := by
  have hlt : num / den < m := (Nat.div_lt_iff_lt_mul hden).mpr h
  rcases roundHalfEven_cases (num := num) (den := den) with ⟨heq, -⟩ | ⟨heq, -⟩ <;> omega

/-- Every multiple of the divisor, by its distance from the quotient's. -/
theorem multiple_distance (M : Int) :
    (M = (num / den : Nat) ∧ M * den - num = -((num % den : Nat) : Int)) ∨
    (M = (num / den : Nat) + 1 ∧ M * den - num = den - (num % den : Nat)) ∨
    M * den - num ≤ -(num % den : Nat) - den ∨ 2 * den - (num % den : Nat) ≤ M * den - num := by
  have hsum : (num : Int) = (num / den : Nat) * den + (num % den : Nat) := by
    exact_mod_cast (Nat.div_add_mod' num den).symm
  have hpos : (0 : Int) ≤ den := by positivity
  have hM : M * den - num = (M - (num / den : Nat)) * den - (num % den : Nat) := by rw [hsum]; ring
  rw [hM]
  rcases lt_trichotomy M (num / den : Nat) with hlt | heq | hgt
  · have := mul_le_mul_of_nonneg_right (show M - (num / den : Nat) ≤ -1 by omega) hpos
    omega
  · exact .inl ⟨heq, by rw [heq]; ring⟩
  · rcases eq_or_lt_of_le (show ((num / den : Nat) : Int) + 1 ≤ M by omega) with heq | hgt'
    · exact .inr (.inl ⟨heq.symm, by rw [← heq]; ring⟩)
    · have := mul_le_mul_of_nonneg_right (show 2 ≤ M - (num / den : Nat) by omega) hpos
      omega

/-- No integer is nearer, in units of the divisor, and one equally near leaves the even one. -/
theorem roundHalfEven_nearest_units (M : Int) :
    |(roundHalfEven num den : Int) * den - num| ≤ |M * den - num| ∧
      (M ≠ roundHalfEven num den → |M * den - num| = |(roundHalfEven num den : Int) * den - num| →
        2 ∣ roundHalfEven num den) := by
  have hrest : ((num % den : Nat) : Int) < den := by exact_mod_cast Nat.mod_lt num hden
  have hnonneg : (0 : Int) ≤ (num % den : Nat) := by positivity
  have hM := multiple_distance (num := num) hden M
  have hbelow : ((num / den : Nat) : Int) * den - num = -(num % den : Nat) := by
    have hsum : ((num / den : Nat) : Int) * den + (num % den : Nat) = num := by exact_mod_cast Nat.div_add_mod' num den
    omega
  have habove : ((num / den + 1 : Nat) : Int) * den - num = den - (num % den : Nat) := by
    rw [Nat.cast_succ, add_one_mul]
    omega
  have habs := abs_cases (M * den - num)
  rcases roundHalfEven_cases (num := num) (den := den) with ⟨heq, hhalf, heven⟩ | ⟨heq, hhalf, heven⟩
  · rw [heq, hbelow, abs_neg, abs_of_nonneg hnonneg]
    exact ⟨by omega, by omega⟩
  · rw [heq, habove, abs_of_nonneg (by omega)]
    exact ⟨by omega, by omega⟩

end

/-- `m` is an integer nearest to `r`, the even one where there are two. -/
structure NearestInt (r : Rat) (m : Nat) : Prop where
  nearest : ∀ M : Int, |(m : Rat) - r| ≤ |(M : Rat) - r|
  tie : ∀ M : Int, M ≠ m → |(M : Rat) - r| = |(m : Rat) - r| → 2 ∣ m
  ge : ∀ k : Nat, (k : Rat) ≤ r → k ≤ m
  le : ∀ k : Nat, r < k → m ≤ k

theorem nearestInt_roundHalfEven {num den : Nat} (hden : 0 < den) :
    NearestInt ((num : Rat) / den) (roundHalfEven num den) := by
  have hpos : (0 : Rat) < den := by exact_mod_cast hden
  have hdist (M : Int) : |(M : Rat) - num / den| = ((|M * den - num| : Int) : Rat) / den := by
    rw [eq_div_iff hpos.ne', ← abs_of_pos hpos, ← abs_mul, abs_of_pos hpos, sub_mul, div_mul_cancel₀ _ hpos.ne']
    push_cast
    rfl
  have hunits (M : Int) := roundHalfEven_nearest_units (num := num) hden M
  have hchosen := hdist (roundHalfEven num den)
  rw [Int.cast_natCast] at hchosen
  refine ⟨fun M => ?_, fun M hne heq => ?_, fun k hk => ?_, fun k hk => ?_⟩
  · rw [hchosen, hdist, div_le_div_iff_of_pos_right hpos]
    exact_mod_cast (hunits M).1
  · refine (hunits M).2 hne ?_
    rw [hchosen, hdist, div_left_inj' hpos.ne'] at heq
    exact_mod_cast heq
  · rw [le_div_iff₀ hpos] at hk
    exact le_roundHalfEven hden (by exact_mod_cast hk)
  · rw [div_lt_iff₀ hpos] at hk
    exact roundHalfEven_le hden (by exact_mod_cast hk)

/-! ## Powers of two -/

theorem two_zpow_of_nonneg {u : Int} (h : 0 ≤ u) : (2 : Rat) ^ u = 2 ^ u.toNat := by
  rw [← zpow_natCast, Int.toNat_of_nonneg h]

theorem two_zpow_of_neg {u : Int} (h : ¬ 0 ≤ u) : (2 : Rat) ^ u = (2 ^ (-u).toNat)⁻¹ := by
  rw [← zpow_natCast, Int.toNat_of_nonneg (by omega), zpow_neg, inv_inv]

theorem two_zpow_pos (u : Int) : (0 : Rat) < 2 ^ u := zpow_pos two_pos u

theorem scaleByPower_eq (m : Nat) (u : Int) : scaleByPower m u = (m : Rat) * 2 ^ u := by
  unfold scaleByPower
  split_ifs with h
  · rw [two_zpow_of_nonneg h, Rat.mkRat_eq_div]
    push_cast
    rw [div_one]
  · rw [two_zpow_of_neg h, Rat.mkRat_eq_div, ← div_eq_mul_inv]
    push_cast
    rfl

/-- A power of two is reached, in natural numbers. -/
theorem two_zpow_le_div_iff {num den : Nat} (hden : 0 < den) (u : Int) :
    (if 0 ≤ u then decide (den * 2 ^ u.toNat ≤ num) else decide (den ≤ num * 2 ^ (-u).toNat)) = true ↔
      (2 : Rat) ^ u ≤ num / den := by
  have hpos : (0 : Rat) < den := by exact_mod_cast hden
  rw [le_div_iff₀ hpos]
  split_ifs with h <;> rw [decide_eq_true_iff]
  · rw [two_zpow_of_nonneg h, mul_comm]
    exact_mod_cast Iff.rfl
  · rw [two_zpow_of_neg h, inv_mul_le_iff₀ (by positivity), mul_comm]
    exact_mod_cast Iff.rfl

/-- The exponent of a positive fraction. -/
theorem binaryExponent_spec {num den : Nat} (hnum : 0 < num) (hden : 0 < den) :
    (2 : Rat) ^ binaryExponent num den ≤ num / den ∧ (num : Rat) / den < 2 ^ (binaryExponent num den + 1) := by
  have hpos : (0 : Rat) < den := by exact_mod_cast hden
  have hnumLow : (2 : Rat) ^ (num.log2 : Int) ≤ num := by exact_mod_cast Nat.log2_self_le hnum.ne'
  have hnumHigh : (num : Rat) < 2 ^ ((num.log2 : Int) + 1) := by exact_mod_cast Nat.lt_log2_self
  have hdenLow : (2 : Rat) ^ (den.log2 : Int) ≤ den := by exact_mod_cast Nat.log2_self_le hden.ne'
  have hdenHigh : (den : Rat) < 2 ^ ((den.log2 : Int) + 1) := by exact_mod_cast Nat.lt_log2_self
  have hlow : (2 : Rat) ^ ((num.log2 : Int) - den.log2 - 1) ≤ num / den := by
    rw [le_div_iff₀ hpos]
    calc (2 : Rat) ^ ((num.log2 : Int) - den.log2 - 1) * den
        ≤ 2 ^ ((num.log2 : Int) - den.log2 - 1) * 2 ^ ((den.log2 : Int) + 1) := by gcongr
      _ = 2 ^ (num.log2 : Int) := by rw [← zpow_add₀ two_ne_zero]; congr 1; ring
      _ ≤ num := hnumLow
  have hhigh : (num : Rat) / den < 2 ^ ((num.log2 : Int) - den.log2 + 1) := by
    rw [div_lt_iff₀ hpos]
    calc (num : Rat) < 2 ^ ((num.log2 : Int) + 1) := hnumHigh
      _ = 2 ^ ((num.log2 : Int) - den.log2 + 1) * 2 ^ (den.log2 : Int) := by
          rw [← zpow_add₀ two_ne_zero]; congr 1; ring
      _ ≤ 2 ^ ((num.log2 : Int) - den.log2 + 1) * den := by gcongr
  have hreached := two_zpow_le_div_iff (num := num) hden ((num.log2 : Int) - den.log2)
  simp only [binaryExponent, hreached]
  by_cases h : (2 : Rat) ^ ((num.log2 : Int) - den.log2) ≤ num / den
  · rw [if_pos h]
    exact ⟨h, hhigh⟩
  · rw [if_neg h, sub_add_cancel]
    exact ⟨hlow, not_le.mp h⟩

/-! ## Rounding a positive fraction -/

/-- The power of two a positive fraction is rounded to multiples of. -/
def roundingUnit (p : Nat) (lowest : Int) (num den : Nat) : Int :=
  max (binaryExponent num den - ((p : Int) - 1)) lowest

/-- How many of them it is rounded to. -/
def roundingCount (num den : Nat) (u : Int) : Nat :=
  if 0 ≤ u then roundHalfEven num (den * 2 ^ u.toNat) else roundHalfEven (num * 2 ^ (-u).toNat) den

theorem roundMagnitude_eq (p : Nat) (lowest : Int) (num den : Nat) :
    roundMagnitude p lowest num den =
      (roundingCount num den (roundingUnit p lowest num den) : Rat) * 2 ^ roundingUnit p lowest num den :=
  scaleByPower_eq _ _

theorem nearestInt_roundingCount {num den : Nat} (hden : 0 < den) (u : Int) :
    NearestInt ((num : Rat) / den / 2 ^ u) (roundingCount num den u) := by
  unfold roundingCount
  split_ifs with h
  · have hscaled := nearestInt_roundHalfEven (num := num) (den := den * 2 ^ u.toNat) (by positivity)
    rw [two_zpow_of_nonneg h, div_div]
    exact_mod_cast hscaled
  · have hscaled := nearestInt_roundHalfEven (num := num * 2 ^ (-u).toNat) hden
    rw [two_zpow_of_neg h, div_inv_eq_mul, div_mul_eq_mul_div]
    exact_mod_cast hscaled

/-! ## Values of a format -/

/-- `y` is a value of the format that none is nearer to `q` than, and of two equally near the even one. -/
def NearestEvenAt (p : Nat) (lowest : Int) (q y : Rat) : Prop :=
  InFormat p lowest y ∧
    ∀ x : Rat, InFormat p lowest x → |y - q| ≤ |x - q| ∧ (x ≠ y → |x - q| = |y - q| → EvenInFormat p lowest y)

section
variable {p : Nat} {lowest : Int}

theorem InFormat.neg {x : Rat} (h : InFormat p lowest x) : InFormat p lowest (-x) := by
  obtain ⟨m, e, hm, he, rfl⟩ := h
  exact ⟨-m, e, by rwa [Int.natAbs_neg], he, by push_cast; ring⟩

theorem EvenInFormat.neg {x : Rat} (h : EvenInFormat p lowest x) : EvenInFormat p lowest (-x) := by
  obtain ⟨m, e, hm, he, hfull, heven, rfl⟩ := h
  exact ⟨-m, e, by rwa [Int.natAbs_neg], he, by rwa [Int.natAbs_neg], heven.neg_right, by push_cast; ring⟩

/-- Rounding is symmetric. -/
theorem NearestEvenAt.neg {q y : Rat} (h : NearestEvenAt p lowest q y) : NearestEvenAt p lowest (-q) (-y) := by
  have hdist (a : Rat) : |-a - -q| = |a - q| := by rw [neg_sub_neg, abs_sub_comm]
  obtain ⟨hformat, hnearest⟩ := h
  refine ⟨hformat.neg, fun x hx => ?_⟩
  obtain ⟨hle, heven⟩ := hnearest (-x) hx.neg
  have hx' : |x - -q| = |-x - q| := by rw [← hdist (-x), neg_neg]
  rw [hdist, hx']
  exact ⟨hle, fun hne heq => (heven (fun h => hne (by rw [← h, neg_neg])) heq).neg⟩

/-- The value 0 is exact. -/
theorem nearestEvenAt_zero : NearestEvenAt p lowest 0 0 := by
  refine ⟨⟨0, lowest, by simp, le_rfl, by simp⟩, fun x _ => ⟨by simp, fun hne heq => absurd ?_ hne⟩⟩
  simpa using heq

/-- A count of at most `2^p` units has a significand of `p` bits, a unit of its own where it is `2^p`. -/
theorem exists_significand {m : Nat} (hp : 2 ≤ p) (hm : m ≤ 2 ^ p) (u : Int) :
    ∃ m' e' : Int, m'.natAbs < 2 ^ p ∧ u ≤ e' ∧ (m : Rat) * 2 ^ u = m' * 2 ^ e' ∧ (2 ∣ m → 2 ∣ m') ∧
      (2 ^ (p - 1) ≤ m ∨ u = lowest → 2 ^ (p - 1) ≤ m'.natAbs ∨ e' = lowest) := by
  rcases hm.lt_or_eq with hlt | rfl
  · exact ⟨m, u, by simpa using hlt, le_rfl, by simp, fun h => by exact_mod_cast h, fun h => by simpa using h⟩
  · obtain ⟨k, rfl⟩ := Nat.exists_eq_add_of_le' hp
    refine ⟨2 ^ (k + 1), u + 1, ?_, by omega, ?_, fun _ => dvd_pow_self 2 (by omega), fun _ => .inl ?_⟩
    · rw [Int.natAbs_pow]
      exact Nat.pow_lt_pow_right (by decide) (by omega)
    · rw [zpow_add_one₀ two_ne_zero]
      push_cast
      ring
    · rw [Int.natAbs_pow]
      rfl

/-- A nearest count of units gives a nearest value, where the units are the format's at `q`: the count fits the
significand, and uses all of it unless the unit is the lowest. -/
theorem nearestEvenAt_of_count {q : Rat} {m : Nat} {u : Int} (hp : 2 ≤ p) (hu : lowest ≤ u)
    (hm : NearestInt (q / 2 ^ u) m) (hhigh : q < 2 ^ (p : Int) * 2 ^ u)
    (hfull : u = lowest ∨ (2 : Rat) ^ (p - 1) * 2 ^ u ≤ q) : NearestEvenAt p lowest q ((m : Rat) * 2 ^ u) := by
  have hunit := two_zpow_pos u
  have hdist (M : Rat) : |M * 2 ^ u - q| = |M - q / 2 ^ u| * 2 ^ u := by
    rw [← abs_of_pos hunit, ← abs_mul, abs_of_pos hunit, sub_mul, div_mul_cancel₀ _ hunit.ne']
  have hfits : m ≤ 2 ^ p := hm.le _ (by rw [div_lt_iff₀ hunit]; exact_mod_cast hhigh)
  have hcount : 2 ^ (p - 1) ≤ m ∨ u = lowest := by
    refine hfull.symm.imp_left fun h => hm.ge _ ?_
    rw [le_div_iff₀ hunit]
    exact_mod_cast h
  obtain ⟨m', e', hbits, he', hvalue, heven, hused⟩ := exists_significand (lowest := lowest) hp hfits u
  refine ⟨⟨m', e', hbits, hu.trans he', hvalue⟩, ?_⟩
  rintro x ⟨M, e, hM, he, rfl⟩
  rcases le_or_gt u e with hmultiple | hfiner
  · have hx : (M : Rat) * 2 ^ e = ((M * 2 ^ (e - u).toNat : Int) : Rat) * 2 ^ u := by
      push_cast
      rw [mul_assoc, ← two_zpow_of_nonneg (by omega), ← zpow_add₀ two_ne_zero, sub_add_cancel]
    rw [hx, hdist, hdist]
    refine ⟨by gcongr ?_ * _; exact hm.nearest _, fun hne heq => ?_⟩
    have htie : 2 ∣ m := hm.tie _ (fun h => hne (by rw [h]; rfl)) (mul_right_cancel₀ hunit.ne' heq)
    exact ⟨m', e', hbits, hu.trans he', hused hcount, heven htie, hvalue⟩
  · have hlow : (2 : Rat) ^ (p - 1) * 2 ^ u ≤ q := hfull.resolve_left (by omega)
    have hbelow : (M : Rat) * 2 ^ e < 2 ^ (p - 1) * 2 ^ u := by
      have hMlt : (M : Rat) < 2 ^ p := by
        have : M < 2 ^ p := lt_of_le_of_lt Int.le_natAbs (by exact_mod_cast hM)
        exact_mod_cast this
      calc (M : Rat) * 2 ^ e < 2 ^ p * 2 ^ e := by gcongr
        _ ≤ 2 ^ p * 2 ^ (u - 1) := by gcongr <;> [norm_num; omega]
        _ = 2 ^ (p - 1) * 2 ^ u := by
          rw [zpow_sub_one₀ two_ne_zero, ← Nat.sub_add_cancel (show 1 ≤ p by omega), pow_succ]
          simp only [Nat.add_sub_cancel]
          ring
    have hnearer := hm.nearest ((2 ^ (p - 1) : Nat) : Int)
    have hstrict : |(m : Rat) * 2 ^ u - q| < |(M : Rat) * 2 ^ e - q| := by
      calc |(m : Rat) * 2 ^ u - q| ≤ |2 ^ (p - 1) * 2 ^ u - q| := by
            rw [hdist, hdist]
            gcongr ?_ * _
            exact_mod_cast hnearer
        _ = q - 2 ^ (p - 1) * 2 ^ u := by rw [abs_sub_comm, abs_of_nonneg (sub_nonneg.mpr hlow)]
        _ < q - M * 2 ^ e := by linarith
        _ ≤ |(M : Rat) * 2 ^ e - q| := by rw [abs_sub_comm]; exact le_abs_self _
    exact ⟨hstrict.le, fun _ heq => absurd heq hstrict.ne'⟩

/-- A positive fraction is rounded to nearest, ties to even. -/
theorem nearestEvenAt_roundMagnitude (hp : 2 ≤ p) {num den : Nat} (hnum : 0 < num) (hden : 0 < den) :
    NearestEvenAt p lowest ((num : Rat) / den) (roundMagnitude p lowest num den) := by
  obtain ⟨hlow, hhigh⟩ := binaryExponent_spec hnum hden
  rw [roundMagnitude_eq]
  refine nearestEvenAt_of_count hp (le_max_right _ _) (nearestInt_roundingCount hden _) ?_ ?_
  · have hle : binaryExponent num den + 1 ≤ p + roundingUnit p lowest num den := by
      have := le_max_left (binaryExponent num den - ((p : Int) - 1)) lowest
      unfold roundingUnit
      omega
    rw [← zpow_add₀ two_ne_zero]
    exact hhigh.trans_le (zpow_le_zpow_right₀ one_le_two hle)
  · rcases max_choice (binaryExponent num den - ((p : Int) - 1)) lowest with h | h
    · refine .inr (hlow.trans' (le_of_eq ?_))
      rw [roundingUnit, h, ← zpow_natCast, ← zpow_add₀ two_ne_zero]
      congr 1
      omega
    · exact .inl h

/-- A rational is rounded to nearest, ties to even. -/
theorem roundsToNearestEven_roundBinary (hp : 2 ≤ p) : RoundsToNearestEven p lowest (roundBinary p lowest) := by
  intro q
  change NearestEvenAt p lowest q (roundBinary p lowest q)
  have hq : q = (q.num : Rat) / q.den := (Rat.num_div_den q).symm
  unfold roundBinary
  split_ifs with hzero hneg
  · rw [Rat.num_eq_zero.mp hzero]
    exact nearestEvenAt_zero
  · have habs : q = -((q.num.natAbs : Rat) / q.den) := by
      have : (q.num.natAbs : Int) = -q.num := by omega
      rw [← Int.cast_natCast q.num.natAbs, this, Int.cast_neg, neg_div, neg_neg]
      exact hq
    have hround := (nearestEvenAt_roundMagnitude (lowest := lowest) hp (num := q.num.natAbs) (by omega) q.pos).neg
    rwa [← habs] at hround
  · have habs : q = (q.num.natAbs : Rat) / q.den := by
      have : (q.num.natAbs : Int) = q.num := by omega
      rw [← Int.cast_natCast q.num.natAbs, this]
      exact hq
    have hround := nearestEvenAt_roundMagnitude (lowest := lowest) hp (num := q.num.natAbs) (by omega) q.pos
    rwa [← habs] at hround

end

/-! ## The obligation -/

/-- Settles O24: an operation is its exact result rounded, by definition; the two binary formats round by one function. -/
theorem roundsToNearest : Obligations.RoundsToNearest :=
  ⟨fun _ _ _ => ⟨rfl, rfl, rfl, rfl⟩, fun _ => rfl, roundsToNearestEven_roundBinary (by decide),
    roundsToNearestEven_roundBinary (by decide)⟩

end Sys2Proof.Machine
end

section
/-! Sys2Proof/Proofs/Channels: the largest and the smallest channel of a colour, and its low byte (O23).

Rounding to nearest is monotone and keeps the values of the format (`arithRound_mono`, `arithRound_of_inFormat`), so the
mixes stay between `p` and `v` through every rounded operation, and each sector shows `v`, `p` and one mix. -/

namespace Sys2Proof.Machine

/-! ## What every arithmetic's rounding does (rule R101) -/

section
variable {p : Nat} {lowest : Int} {round : Rat → Rat} (hround : RoundsToNearestEven p lowest round)
include hround

/-- A value of the format is not changed. -/
theorem RoundsToNearestEven.of_inFormat {x : Rat} (hx : InFormat p lowest x) : round x = x := by
  have hle := ((hround x).2 x hx).1
  rwa [sub_self, abs_zero, abs_nonpos_iff, sub_eq_zero] at hle

/-- Of two rationals the greater is not rounded to less. -/
theorem RoundsToNearestEven.monotone : Monotone round := by
  intro x y hxy
  by_contra! hlt
  obtain ⟨hformatX, hnearX⟩ := hround x
  obtain ⟨hformatY, hnearY⟩ := hround y
  have hx := (hnearX _ hformatY).1
  have hy := (hnearY _ hformatX).1
  have hxMid : round x + round y ≤ 2 * x := by
    rcases abs_cases (round x - x) with ⟨h, h0⟩ | ⟨h, h0⟩ <;>
      rcases abs_cases (round y - x) with ⟨h', -⟩ | ⟨h', -⟩ <;> linarith
  have hyMid : 2 * y ≤ round x + round y := by
    rcases abs_cases (round y - y) with ⟨h, h0⟩ | ⟨h, h0⟩ <;>
      rcases abs_cases (round x - y) with ⟨h', -⟩ | ⟨h', -⟩ <;> linarith
  have heq : x = y := by linarith
  rw [heq] at hlt
  exact hlt.false

end

theorem arithRound_mono (a : Arith) : Monotone (arithRound a) := by
  cases a with
  | exact => exact monotone_id
  | f32 => exact RoundsToNearestEven.monotone (roundsToNearestEven_roundBinary (by decide))
  | f64 => exact RoundsToNearestEven.monotone (roundsToNearestEven_roundBinary (by decide))

/-- Integers of a byte are values of every arithmetic. -/
theorem arithRound_byte (a : Arith) {m : Nat} (hm : m < 256) : arithRound a (m : Rat) = m := by
  have hformat {p : Nat} {lowest : Int} (hp : 8 ≤ p) (hlowest : lowest ≤ 0) : InFormat p lowest (m : Rat) := by
    refine ⟨m, 0, ?_, hlowest, by simp⟩
    calc (m : Int).natAbs = m := rfl
      _ < 2 ^ 8 := hm
      _ ≤ 2 ^ p := Nat.pow_le_pow_right (by decide) hp
  cases a with
  | exact => rfl
  | f32 => exact (roundsToNearestEven_roundBinary (by decide)).of_inFormat (hformat (by decide) (by decide))
  | f64 => exact (roundsToNearestEven_roundBinary (by decide)).of_inFormat (hformat (by decide) (by decide))

theorem arithRound_zero (a : Arith) : arithRound a 0 = 0 := arithRound_byte a (m := 0) (by decide)

theorem arithRound_one (a : Arith) : arithRound a 1 = 1 := by
  exact_mod_cast arithRound_byte a (m := 1) (by decide)

theorem arithRound_255 (a : Arith) : arithRound a 255 = 255 := by
  exact_mod_cast arithRound_byte a (m := 255) (by decide)

/-- A rounded value stays at or above a value of the arithmetic. -/
theorem le_arithRound {a : Arith} {x y : Rat} (hx : arithRound a x = x) (h : x ≤ y) : x ≤ arithRound a y :=
  hx.symm.le.trans (arithRound_mono a h)

/-- A rounded value stays at or below a value of the arithmetic. -/
theorem arithRound_le {a : Arith} {x y : Rat} (hy : arithRound a y = y) (h : x ≤ y) : arithRound a x ≤ y :=
  (arithRound_mono a h).trans hy.le

/-! ## The mixes of rule R106 lie between `p` and `v` -/

/-- A fraction of a hue is between 0 and 1. -/
theorem hueFraction_mem (a : Arith) (h : Rat) : 0 ≤ hueFraction a h ∧ hueFraction a h ≤ 1 := by
  have hlow : ((hueSector a h : Int) : Rat) ≤ arithDiv a h 60 := Int.floor_le _
  have hhigh : arithDiv a h 60 < ((hueSector a h : Int) : Rat) + 1 := Int.lt_floor_add_one _
  exact ⟨le_arithRound (arithRound_zero a) (by linarith), arithRound_le (arithRound_one a) (by linarith)⟩

/-- What is left of the value where a fraction `g` of the saturation is taken away (rule R106). -/
def mixed (a : Arith) (s v g : Rat) : Rat := arithMul a v (arithSub a 1 (arithMul a s g))

theorem mixQ_eq_mixed (a : Arith) (s v f : Rat) : mixQ a s v f = mixed a s v f := rfl

theorem mixT_eq_mixed (a : Arith) (s v f : Rat) : mixT a s v f = mixed a s v (arithSub a 1 f) := rfl

section
variable {a : Arith} {s v g : Rat} (hs : 0 ≤ s) (hv : 0 ≤ v) (hg : 0 ≤ g ∧ g ≤ 1)

include hs hg in
/-- The saturation taken away is between none and all of it. -/
theorem arithMul_sat_mem (hsa : arithRound a s = s) : 0 ≤ arithMul a s g ∧ arithMul a s g ≤ s :=
  ⟨le_arithRound (arithRound_zero a) (mul_nonneg hs hg.1), arithRound_le hsa (mul_le_of_le_one_right hs hg.2)⟩

include hs hv hg in
theorem mixP_le_mixed (hsa : arithRound a s = s) : mixP a s v ≤ mixed a s v g := by
  refine arithRound_mono a (mul_le_mul_of_nonneg_left (arithRound_mono a ?_) hv)
  linarith [(arithMul_sat_mem hs hg hsa).2]

include hs hv hg in
theorem mixed_le_value (hsa : arithRound a s = s) (hva : arithRound a v = v) : mixed a s v g ≤ v := by
  refine arithRound_le hva (mul_le_of_le_one_right hv (arithRound_le (arithRound_one a) ?_))
  linarith [(arithMul_sat_mem hs hg hsa).1]

include hv in
theorem mixP_nonneg (hs1 : s ≤ 1) : 0 ≤ mixP a s v :=
  le_arithRound (arithRound_zero a) (mul_nonneg hv (le_arithRound (arithRound_zero a) (by linarith)))

end

/-! ## The channels -/

/-- A value between 0 and 1 is scaled to a byte without overflow (rule R108). -/
theorem channel_toNat (a : Arith) {x : Rat} (h0 : 0 ≤ x) (h1 : x ≤ 1) :
    ((channel a x).toNat : Int) = (arithMul a x 255).floor := by
  have hlow : 0 ≤ arithMul a x 255 := le_arithRound (arithRound_zero a) (by positivity)
  have hhigh : arithMul a x 255 ≤ 255 := arithRound_le (arithRound_255 a) (by linarith)
  have hfloor : 0 ≤ (arithMul a x 255).floor := Int.floor_nonneg.mpr hlow
  have hbyte : arithMul a x 255 < ((256 : Int) : Rat) := hhigh.trans_lt (by norm_num)
  have hfloor' : (arithMul a x 255).floor < 256 := Int.floor_lt.mpr hbyte
  rw [channel, BitVec.toNat_ofInt]
  omega

theorem channel_mono (a : Arith) {x y : Rat} (h0 : 0 ≤ x) (hxy : x ≤ y) (h1 : y ≤ 1) :
    (channel a x).toNat ≤ (channel a y).toNat := by
  have hfloor : (arithMul a x 255).floor ≤ (arithMul a y 255).floor :=
    Int.floor_le_floor (arithRound_mono a (by linarith))
  have hx := channel_toNat a h0 (hxy.trans h1)
  have hy := channel_toNat a (h0.trans hxy) h1
  omega

/-- A colour of which `v` is the largest channel and `p` the smallest. -/
def Between (a : Arith) (p v : Rat) (w : Word) : Prop :=
  ∃ g r b : Byte,
    w = pack r g b ∧ max g.toNat (max r.toNat b.toNat) = (channel a v).toNat ∧
      min g.toNat (min r.toNat b.toNat) = (channel a p).toNat

/-- Every sector shows `v`, `p` and one mix. -/
theorem between_selectRgb {a : Arith} {p q t v : Rat} (h0 : 0 ≤ p) (h1 : v ≤ 1) (hq : p ≤ q ∧ q ≤ v)
    (ht : p ≤ t ∧ t ≤ v) (sector : Int) : Between a p v (packRgb a (selectRgb sector v p q t)) := by
  have hqLow := channel_mono a h0 hq.1 (hq.2.trans h1)
  have hqHigh := channel_mono a (h0.trans hq.1) hq.2 h1
  have htLow := channel_mono a h0 ht.1 (ht.2.trans h1)
  have htHigh := channel_mono a (h0.trans ht.1) ht.2 h1
  refine ⟨_, _, _, rfl, ?_⟩
  unfold selectRgb
  split_ifs <;> (dsimp only; omega)

theorem pack_low_byte (r g b : Byte) : (pack r g b).extractLsb' 0 8 = 0 :=
  BitVec.extractLsb'_append_eq_right

/-- Inside the domain a colour is packed, so its low byte is 0 (rules R84, R89). -/
theorem conv_low_byte (a : Arith) {h s v : Rat} (hdom : inDomain h s v = true) :
    (conv a h s v).extractLsb' 0 8 = 0 := by
  rw [conv, if_pos hdom]
  split
  · exact pack_low_byte _ _ _
  · exact pack_low_byte _ _ _

/-- Inside the domain, the largest channel is that of the value and the smallest that of `v * (1 - s)`. -/
theorem between_conv {a : Arith} {h s v : Rat} (hv : 0 ≤ v ∧ v ≤ 1) (hs : 0 ≤ s ∧ s ≤ 1)
    (hh : s = 0 ∨ 0 ≤ h ∧ h ≤ 360) (hsa : arithRound a s = s) (hva : arithRound a v = v) :
    Between a (mixP a s v) v (conv a h s v) := by
  rcases eq_or_ne s 0 with rfl | hne
  · have hp : mixP a 0 v = v := by
      rw [mixP, arithSub, sub_zero, arithRound_one, arithMul, mul_one, hva]
    rw [conv_zero_sat a h hv, hp]
    exact ⟨_, _, _, rfl, by simp, by simp⟩
  · rw [conv_of_sat_ne_zero a hne hv hs (hh.resolve_left hne), convColour]
    have hf := hueFraction_mem a (foldHue h)
    have hf' : 0 ≤ arithSub a 1 (hueFraction a (foldHue h)) ∧ arithSub a 1 (hueFraction a (foldHue h)) ≤ 1 :=
      ⟨le_arithRound (arithRound_zero a) (by linarith), arithRound_le (arithRound_one a) (by linarith)⟩
    exact between_selectRgb (mixP_nonneg hv.1 hs.2) hv.2
      ⟨mixP_le_mixed hs.1 hv.1 hf hsa, mixed_le_value hs.1 hv.1 hf hsa hva⟩
      ⟨mixP_le_mixed hs.1 hv.1 hf' hsa, mixed_le_value hs.1 hv.1 hf' hsa hva⟩ _

/-! ## The obligation -/

/-- Settles O23: the extreme channels are those of the value and of the smallest mix, neither of which overflows. -/
theorem convExtremeChannels : Obligations.ConvExtremeChannels := by
  intro a h s v p hs0 hs1 hv0 hv1 hh
  refine ⟨fun hsa hva hp => ?_, conv_low_byte a (inDomain_iff.mpr ⟨⟨hv0, hv1⟩, ⟨hs0, hs1⟩, hh⟩)⟩
  obtain rfl : p = mixP a s v := hp
  have hf : (0 : Rat) ≤ 1 ∧ (1 : Rat) ≤ 1 := ⟨zero_le_one, le_rfl⟩
  have hle : mixP a s v ≤ v := (mixP_le_mixed hs0 hv0 hf hsa).trans (mixed_le_value hs0 hv0 hf hsa hva)
  obtain ⟨g, r, b, hpack, hmax, hmin⟩ := between_conv ⟨hv0, hv1⟩ ⟨hs0, hs1⟩ hh hsa hva
  refine ⟨g, r, b, hpack, ?_, ?_⟩
  · rw [hmax, channel_toNat a hv0 hv1]
  · rw [hmin, channel_toNat a (mixP_nonneg hv0 hs1) (hle.trans hv1)]

end Sys2Proof.Machine
end

section
/-! Sys2Proof/Proofs/Start: a start of the block, in either order (O2).

Both orders end, before `ARM`, in a state in which the first tick finds the frame built: `ReadyToStart`. From there on
they are one. -/

namespace Sys2Proof.Machine

variable {s : State} {fuel : Nat}

/-! ## Lines of a listing -/

theorem runLines_cons {line : Line} {rest : List Line} {t : State} (h : runLine fuel line s = .next t) :
    runLines fuel (line :: rest) s = runLines fuel rest t := by
  rw [runLines, h, andThen]

/-- `REFRESH` where a tick can be raised (rule R93): the tick, then its handler. -/
theorem runLine_refresh (hcan : canTick s = true) : runLine fuel .refresh s = .next (tickHandler (raiseTick s)) := by
  have hirq : canIrq (raiseTick s) = true := canIrq_iff.mpr ⟨(canTick_iff.mp hcan).1, rfl⟩
  rw [runLine, runInstrs, exec, execTick_of_can hcan, andThen, runInstrs, exec, execIrq_of_can hirq, andThen, runInstrs]

/-! ## The first tick -/

/-- What the handler's swap leaves in the Refresh Context depends on the context, the engine and the configuration. -/
theorem handlerSwap_ctx_congr {t : State} (hcfg : t.cfg = s.cfg) (hctx : t.ctx = s.ctx) (hdma : t.dma = s.dma) :
    (handlerSwap t).ctx = (handlerSwap s).ctx := by
  rcases swap_due_or_not s with ⟨hdouble, hreq, hidle, hnone⟩ | hnot
  · rw [handlerSwap_ctx_of_due hdouble hreq hidle hnone, handlerSwap_ctx_of_due (hcfg ▸ hdouble) (hctx ▸ hreq)
      (hdma ▸ hidle) (hdma ▸ hnone), hctx, hcfg]
  · rw [handlerSwap_of_not_due hnot, handlerSwap_of_not_due (by rwa [hcfg, hctx, hdma]), hctx]

/-- Where the engine is idle, the handler starts a transfer of the slot that is live after its swap. -/
theorem tickHandler_of_idle {ctx : Ctx} (hctx : (handlerSwap (clearTick s)).ctx = ctx) (hidle : s.dma.busy = false) :
    tickHandler s = nextDeadline (startTransfer { clearTick s with ctx := ctx } ctx.addr) := by
  have hstart : triggerEngine { clearTick s with ctx := ctx } ctx.addr = _ := triggerEngine_of_idle ctx.addr hidle
  rw [tickHandler_of_ctx hctx, hstart]

/-- The block is initialized and idle, not yet armed, and the slot that is live after the next tick's swap starts at
`base`. -/
structure ReadyToStart (s : State) (base : Addr) : Prop where
  ready : s.sys.state = .ready
  untimed : s.cfg.timed = false
  inactive : s.bld.active = false
  notArmed : s.sch.state = .idle
  noTick : s.sch.irqPending = false
  idle : s.dma.busy = false
  live : (handlerSwap s).ctx.addr = base

/-- `ARM` and the first tick start the transfer of the slot that is then live. -/
theorem ReadyToStart.first_tick {base : Addr} (h : ReadyToStart s base) :
    ∃ t : State,
      runLines fuel [.op .arm, .refresh] s = .next t ∧ t.sys.state = .ready ∧ t.sch.state = .armed ∧
      t.dma.busy = true ∧ t.dma.remaining = frameWords s.cfg ∧ t.dma.raddr = base ∧ t.ctx.addr = base ∧
      ∀ a, memRead t a = memRead s a := by
  have halive : s.sys.state ≠ .failed := by simp [h.ready]
  have harm : runLine fuel (.op .arm) s = .next (armTimer s) :=
    execArm_of_not_armed (hostOpen_iff.mpr ⟨h.inactive, halive⟩) (by simp [h.ready]) (by simp [h.notArmed])
  have hcan : canTick (armTimer s) = true :=
    canTick_iff.mpr ⟨halive, rfl, h.noTick, fun htimed => by simp [h.untimed] at htimed⟩
  refine ⟨tickHandler (raiseTick (armTimer s)), ?_, ?_⟩
  · rw [runLines_cons harm, runLines_cons (runLine_refresh hcan), runLines]
  · have hctx : (handlerSwap (clearTick (raiseTick (armTimer s)))).ctx = (handlerSwap s).ctx :=
      handlerSwap_ctx_congr rfl rfl rfl
    rw [tickHandler_of_idle hctx h.idle]
    exact ⟨h.ready, rfl, rfl, rfl, h.live, h.live, memRead_congr _ _ rfl rfl rfl⟩

/-! ## What is live after the first swap -/

/-- With one buffer there is no swap. -/
theorem live_of_single (hsingle : s.cfg.buffers = .single) (haddr : s.ctx.addr = s.cfg.bufAddr) :
    (handlerSwap s).ctx.addr = buildBase s.cfg .zero := by
  rw [handlerSwap_of_not_due (.inl hsingle), haddr, buildBase_of_single _ hsingle]

/-- With two the slot built in, which waits, goes live. -/
theorem live_of_double (hdouble : s.cfg.buffers = .double) (hreq : s.ctx.swapReq = true) (hcur : s.ctx.cur = .zero)
    (hidle : s.dma.busy = false) (hnone : s.dma.pending = false) :
    (handlerSwap s).ctx.addr = buildBase s.cfg .zero := by
  rw [handlerSwap_ctx_of_due hdouble hreq hidle hnone, buildBase_of_double _ hdouble, hcur]

/-! ## The two orders -/

/-- The state after `RESET` and `INIT`. -/
def initialized (s : State) : State := claimResources (resetBlock s)

/-- The state after a whole `BUILD` in `s`. -/
def withFrame (s : State) (h sat v : Rat) : State := finishBuild (builtState (startBuild s h sat v) s.cfg.n)

section
variable (h sat v : Rat) (htimed : s.cfg.timed = false)
include htimed

/-- `INIT`, then `BUILD`. -/
theorem readyToStart_init_build : ReadyToStart (withFrame (initialized s) h sat v) (buildBase s.cfg .zero) where
  ready := rfl
  untimed := htimed
  inactive := rfl
  notArmed := rfl
  noTick := rfl
  idle := rfl
  live := by
    cases hb : s.cfg.buffers with
    | single => exact live_of_single (s := withFrame (initialized s) h sat v) hb rfl
    | double =>
      refine live_of_double (s := withFrame (initialized s) h sat v) hb ?_ rfl rfl rfl
      change swapAtEnd s.cfg.buffers _ = true
      rw [hb, swapAtEnd_double]

/-- `BUILD`, then `INIT`; with two buffers in the reading in which the swap that waits is kept (log 19). -/
theorem readyToStart_build_init (hkeeps : s.cfg.buffers = .double → s.cfg.initSwap = .keeps) :
    ReadyToStart (claimResources (withFrame (resetBlock s) h sat v)) (buildBase s.cfg .zero) where
  ready := rfl
  untimed := htimed
  inactive := rfl
  notArmed := rfl
  noTick := rfl
  idle := rfl
  live := by
    cases hb : s.cfg.buffers with
    | single => exact live_of_single (s := claimResources (withFrame (resetBlock s) h sat v)) hb rfl
    | double =>
      refine live_of_double (s := claimResources (withFrame (resetBlock s) h sat v)) hb ?_ rfl rfl rfl
      change swapAtInit s.cfg.initSwap (withFrame (resetBlock s) h sat v).ctx = true
      rw [hkeeps hb, swapAtInit_keeps]
      change (swapAtEnd s.cfg.buffers _ && true) = true
      rw [hb, swapAtEnd_double]
      rfl

end

/-- Either order, run up to `ARM`, is ready to start, with the frame in memory. -/
theorem ready_after_start {st : State} {h s v : Operand} {h' s' v' : Rat} {start : List Line}
    (hc : configOk st.cfg = true) (htimed : st.cfg.timed = false)
    (hvals : operandValues st.cfg.arith h s v = some (h', s', v'))
    (hstart : start = [.op (.init true true), .buildAll h s v] ∨
      start = [.buildAll h s v, .op (.init true true)] ∧ (st.cfg.buffers = .double → st.cfg.initSwap = .keeps))
    (rest : List Line) :
    ∃ u : State,
      runLines fuel (.op .reset :: (start ++ rest)) st = runLines fuel rest u ∧
      ReadyToStart u (buildBase st.cfg .zero) ∧ u.cfg = st.cfg ∧
      ∀ i : Nat, i ≤ st.cfg.n →
        memRead u (wordAddr (buildBase st.cfg .zero) i) = some (builtWord (startBuild (resetBlock st) h' s' v') i) := by
  have hreset : runLine fuel (.op .reset) st = .next (resetBlock st) := rfl
  rw [runLines_cons hreset]
  rcases hstart with rfl | ⟨rfl, hkeeps⟩
  · have hinit : runLine fuel (.op (.init true true)) (resetBlock st) = .next (initialized st) :=
      execInit_of_both_free (s := resetBlock st) rfl rfl
    have hbuild : runLine fuel (.buildAll h s v) (initialized st) = .next (withFrame (initialized st) h' s' v') :=
      runLine_buildAll fuel hc rfl hvals
    refine ⟨withFrame (initialized st) h' s' v', ?_, readyToStart_init_build h' s' v' htimed, rfl, fun i hi => ?_⟩
    · rw [List.cons_append, runLines_cons hinit, List.cons_append, runLines_cons hbuild, List.nil_append]
    · rw [← builtWord_startBuild_congr (st₁ := resetBlock st) (st₂ := initialized st) rfl]
      exact memRead_frame (buildBegun_startBuild (st := initialized st) hc nofun h' s' v') hi
  · have hbuild : runLine fuel (.buildAll h s v) (resetBlock st) = .next (withFrame (resetBlock st) h' s' v') :=
      runLine_buildAll fuel hc rfl hvals
    have hinit : runLine fuel (.op (.init true true)) (withFrame (resetBlock st) h' s' v') =
        .next (claimResources (withFrame (resetBlock st) h' s' v')) :=
      execInit_of_both_free (s := withFrame (resetBlock st) h' s' v') rfl rfl
    refine ⟨claimResources (withFrame (resetBlock st) h' s' v'), ?_, readyToStart_build_init h' s' v' htimed hkeeps, rfl,
      fun i hi => ?_⟩
    · rw [List.cons_append, runLines_cons hbuild, List.cons_append, runLines_cons hinit, List.nil_append]
    · exact (memRead_congr (withFrame (resetBlock st) h' s' v') _ rfl rfl rfl _).trans
        (memRead_frame (buildBegun_startBuild (st := resetBlock st) hc nofun h' s' v') hi)

/-! ## The obligation -/

/-- Settles O2: `INIT` that keeps the swap is `claimResources`; either order is ready to start, and the first tick
transfers what memory then holds. -/
theorem startInEitherOrder : Obligations.StartInEitherOrder := by
  refine ⟨fun s hinactive hreset hkeeps => ?_, fun st h s v h' s' v' fuel start hc htimed hvals hstart => ?_⟩
  · rw [exec, execInit_of_both_free (hostFree_iff.mpr hinactive) hreset, claimResources, hkeeps, swapAtInit_keeps]
  · obtain ⟨u, hrun, hready, hcfg, hframe⟩ :=
      ready_after_start (fuel := fuel) hc htimed hvals hstart [.op .arm, .refresh]
    obtain ⟨t, hrun', hsys, harmed, hbusy, hremaining, hraddr, haddr, hread⟩ := hready.first_tick (fuel := fuel)
    have hwords : ∀ i : Nat, i ≤ st.cfg.n →
        memRead t (wordAddr t.dma.raddr i) = some (builtWord (startBuild (resetBlock st) h' s' v') i) :=
      fun i hi => by rw [hraddr, hread, hframe i hi]
    refine ⟨t, hrun.trans hrun', hsys, harmed, hbusy, by rw [hremaining, hcfg], hraddr, haddr, ?_,
      fun k hk => hwords (k + 1) hk⟩
    have hheader := hwords 0 (Nat.zero_le _)
    rwa [wordAddr_zero] at hheader

end Sys2Proof.Machine
end

section
/-! Sys2Proof/Proofs/Frame: one `FRAME` sends the serial image of the frame in memory (O59).

How far the engine runs ahead of the generator depends on `IN_DEPTH`, so the two are followed apart. `Draining` says
which words the engine has yet to deliver; `Sends` says, from the words the generator has yet to take, what it has yet to
send and how many steps that takes it. A step of `DRAIN` is one of the engine or one of the generator, and takes one from
the steps left; where none is left both are back at a frame boundary. -/

namespace Sys2Proof.Machine

variable {s st : State} {coming : List Word} {image : List LineSymbol} {m : Nat}

/-! ## What the generator has yet to send -/

/-- What the generator sends, and in how many steps, when it takes these words one after another. -/
inductive Sends (c : Config) : Gen → List Word → List LineSymbol → Nat → Prop where
  | frame {g : Gen} {colours : List Word} (phase : g.phase = .hdr) (length : colours.length = c.n) :
      Sends c g (header c.n :: colours) (serialImage colours) (25 * colours.length + 2)
  | colour {g : Gen} {w : Word} {colours : List Word} (phase : g.phase = .pix)
      (bitsLeft : g.bitsLeft.toNat = 24 * (w :: colours).length) :
      Sends c g (w :: colours) (serialImage (w :: colours)) (25 * (w :: colours).length + 1)
  | bits {g : Gen} {k : Nat} {colours : List Word} (phase : g.phase = .bit) (osrCnt : g.osrCnt.toNat = k + 1)
      (bitsLeft : g.bitsLeft.toNat = 24 * colours.length + (k + 1)) :
      Sends c g colours (leadingBits (k + 1) g.osr ++ serialImage colours) (25 * colours.length + 1 + (k + 1))
  | reset {g : Gen} (phase : g.phase = .rst) : Sends c g [] (serialImage []) 1
  | done {g : Gen} (phase : g.phase = .hdr) : Sends c g [] [] 0

/-- Rule R87: a frame's image begins with the payload of its first colour word. -/
theorem serialImage_cons (w : Word) (colours : List Word) :
    serialImage (w :: colours) = leadingBits 24 w ++ serialImage colours := by
  rw [serialImage, List.map_cons, List.flatten_cons, List.append_assoc, payload, serialImage]

/-- Between two colour words, and after the last. -/
theorem sends_between {c : Config} {g : Gen} {colours : List Word} (hbits : g.bitsLeft.toNat = 24 * colours.length)
    (hphase : g.phase = if colours = [] then .rst else .pix) :
    Sends c g colours (serialImage colours) (25 * colours.length + 1) := by
  cases colours with
  | nil => exact .reset hphase
  | cons w colours => exact .colour hphase hbits

/-- A generator with no step left waits for a frame. -/
theorem Sends.eq_of_no_step {c : Config} {g : Gen} {words : List Word} (h : Sends c g words image 0) :
    words = [] ∧ image = [] ∧ g.phase = .hdr := by
  cases h with
  | done hphase => exact ⟨rfl, rfl, hphase⟩

/-! ## What the engine has yet to deliver -/

/-- `st` is reached from `s` by steps of the engine and the generator, and the engine has yet to deliver these words. -/
structure Draining (s st : State) (coming : List Word) : Prop where
  frame : st = { s with dma := st.dma, gen := st.gen, out := st.out }
  config : configOk st.cfg = true
  alive : st.sys.state ≠ .failed
  untimed : st.cfg.timed = false
  init : st.gen.init = true
  words : ∀ (j : Nat) (w : Word), coming[j]? = some w → memRead st (wordAddr st.dma.raddr j) = some w
  remaining : st.dma.remaining.toNat = coming.length
  busy : st.dma.busy = true ↔ coming ≠ []
  noRequest : st.dma.pending = false

/-- One bit out leaves the rest of the word, or what comes after it. -/
theorem sends_shiftOut {c : Config} {g : Gen} {k : Nat} {colours : List Word} (hcnt : g.osrCnt.toNat = k + 1)
    (hbits : g.bitsLeft.toNat = 24 * colours.length + (k + 1)) :
    Sends c (shiftOut g) colours (leadingBits k (g.osr <<< 1) ++ serialImage colours)
      (25 * colours.length + 1 + k) := by
  have hcnt' : (shiftOut g).osrCnt.toNat = k := by
    simp only [shiftOut]
    bv_omega
  have hbits' : (shiftOut g).bitsLeft.toNat = 24 * colours.length + k := by
    simp only [shiftOut]
    bv_omega
  have hturn := phaseAfterBit_cases (shiftOut g).bitsLeft (shiftOut g).osrCnt
  cases k with
  | zero =>
    refine sends_between hbits' ?_
    cases colours with
    | nil =>
      rcases hturn with ⟨-, h⟩ | ⟨hmore, -⟩ | ⟨hmore, -⟩
      · exact h
      · exact absurd hbits' hmore
      · exact absurd hbits' hmore
    | cons w colours =>
      rw [List.length_cons] at hbits'
      rcases hturn with ⟨hnone, -⟩ | ⟨-, -, h⟩ | ⟨-, hinside, -⟩
      · omega
      · exact h
      · exact absurd hcnt' hinside
  | succ k =>
    rcases hturn with ⟨hnone, -⟩ | ⟨-, hend, -⟩ | ⟨-, -, h⟩
    · omega
    · omega
    · exact .bits h hcnt' hbits'

/-- A word more in the queue does not change what the generator does with the words before it. -/
theorem Sends.pushInq {c : Config} {g : Gen} {words : List Word} (h : Sends c g words image m) (w : Word) :
    Sends c (Machine.pushInq g w) words image m := by
  cases h with
  | frame hphase hlength => exact .frame hphase hlength
  | colour hphase hbits => exact .colour hphase hbits
  | bits hphase hcnt hbits => exact .bits (g := Machine.pushInq g w) hphase hcnt hbits
  | reset hphase => exact .reset hphase
  | done hphase => exact .done hphase

namespace Draining

/-- A step of the generator leaves the engine. -/
theorem generator (h : Draining s st coming) (gen : Gen) (out : List LineSymbol) (hinit : gen.init = st.gen.init) :
    Draining s { st with gen := gen, out := out } coming :=
  { h with
    frame := by rw [h.frame]
    init := hinit.trans h.init }

theorem canXfer_iff (h : Draining s st coming) : canXfer st = true ↔ coming ≠ [] ∧ st.gen.inq.length < st.cfg.inDepth := by
  rw [Machine.canXfer_iff, h.busy, h.init]
  exact ⟨fun ⟨_, hwords, _, hroom⟩ => ⟨hwords, hroom⟩, fun ⟨hwords, hroom⟩ => ⟨h.alive, hwords, rfl, hroom⟩⟩

/-- The engine delivers its next word. -/
theorem xfer {w : Word} (h : Draining s st (w :: coming)) (hcan : canXfer st = true) :
    ∃ t, exec .xfer st = .next t ∧ t.gen = pushInq st.gen w ∧ t.out = st.out ∧ t.cfg = st.cfg ∧
      Draining s t coming := by
  have hword : memRead st st.dma.raddr = some w := by
    have hfirst := h.words 0 w rfl
    rwa [wordAddr_zero] at hfirst
  have hremaining : st.dma.remaining.toNat = coming.length + 1 := h.remaining
  refine ⟨moveWord st w, execXfer_of_can hcan hword, moveWord_gen st w, moveWord_out st w, moveWord_cfg st w, ?_⟩
  have hnext : ∀ (j : Nat) (x : Word), coming[j]? = some x → memRead st (wordAddr (st.dma.raddr + 4) j) = some x := by
    intro j x hj
    have haddr : wordAddr (st.dma.raddr + 4) j = wordAddr st.dma.raddr (1 + j) := wordAddr_wordAddr st.dma.raddr 1 j
    rw [haddr]
    exact h.words (1 + j) x (by rwa [Nat.add_comm])
  have hleft : (st.dma.remaining - 1).toNat = coming.length := by bv_omega
  cases coming with
  | nil =>
    have hlast : st.dma.remaining = 1 := BitVec.eq_of_toNat_eq hremaining
    rw [moveWord_of_last w hlast, completeTransfer_of_not_queued (s := deliverWord st w) (.inr h.noRequest)]
    exact
      { h with
        frame := by rw [h.frame]; rfl
        words := hnext
        remaining := hleft
        busy := by simp }
  | cons x coming =>
    have hmore : st.dma.remaining ≠ 1 := fun hone => by
      rw [hone] at hremaining
      simp at hremaining
    rw [moveWord_of_more w hmore]
    exact
      { h with
        frame := by rw [h.frame]; rfl
        words := hnext
        remaining := hleft
        busy := ⟨fun _ => by simp, fun _ => h.busy.mpr (by simp)⟩ }

/-! ## A step of the generator -/

/-- A generator that has something to send, and a word waiting where it takes one, sends on. -/
theorem genStep (h : Draining s st coming) (hsends : Sends st.cfg st.gen (st.gen.inq ++ coming) image (m + 1))
    (hword : st.gen.inq = [] → coming = []) :
    enabled st (genStepInstr st) = true ∧
    ∃ t image', exec (genStepInstr st) st = .next t ∧ Draining s t coming ∧ t.out ++ image' = st.out ++ image ∧
      Sends t.cfg t.gen (t.gen.inq ++ coming) image' m := by
  have hrest : genAtRest st = true := genAtRest_of_untimed h.untimed h.alive
  generalize htake : st.gen.inq ++ coming = words at hsends
  generalize hsteps : m + 1 = steps at hsends
  have hwaits {w : Word} {rest : List Word} (hcons : st.gen.inq ++ coming = w :: rest) :
      ∃ inq, st.gen.inq = w :: inq ∧ inq ++ coming = rest := by
    cases hinq : st.gen.inq with
    | nil => simp [hinq, hword hinq] at hcons
    | cons x inq =>
      rw [hinq, List.cons_append, List.cons.injEq] at hcons
      exact ⟨inq, by rw [hcons.1], hcons.2⟩
  cases hsends with
  | @frame colours hphase hlength =>
    obtain ⟨inq, hinq, hcoming⟩ := hwaits htake
    have hinstr : genStepInstr st = .genHdr := by rw [genStepInstr, hphase]
    obtain ⟨hn, -⟩ := n_bounds_of_configOk h.config
    have hcolours : colours ≠ [] := fun hnil => by simp [hnil] at hlength; omega
    have hbits := (bitsOfHeader_toNat h.config).trans (congrArg (24 * ·) hlength.symm)
    rw [hinstr]
    refine ⟨canGenHdr_iff.mpr ⟨hrest, hphase, by simp [hinq]⟩, _, serialImage colours,
      execGenHdr_of_cons hrest hphase hinq, h.generator _ st.out rfl, rfl, ?_⟩
    simp only [hcoming]
    rw [show m = 25 * colours.length + 1 by omega]
    exact sends_between hbits (if_neg hcolours).symm
  | @colour w colours hphase hbits =>
    obtain ⟨inq, hinq, hcoming⟩ := hwaits htake
    have hinstr : genStepInstr st = .genPix := by rw [genStepInstr, hphase]
    rw [List.length_cons] at hbits hsteps
    rw [hinstr]
    refine ⟨canGenPix_iff.mpr ⟨hrest, hphase, by simp [hinq]⟩, _, leadingBits 24 w ++ serialImage colours,
      execGenPix_of_cons hrest hphase hinq, h.generator _ st.out rfl, by rw [serialImage_cons], ?_⟩
    simp only [hcoming]
    rw [show m = 25 * colours.length + 1 + (23 + 1) by omega]
    exact .bits (g := { st.gen with inq := inq, osr := w, osrCnt := 24, phase := .bit }) rfl rfl
      (by simp only; omega)
  | @bits k _ hphase hcnt hbits =>
    have hinstr : genStepInstr st = .genBit := by rw [genStepInstr, hphase]
    have hcan : canGenBit st = true := canGenBit_iff.mpr ⟨hrest, hphase⟩
    rw [hinstr]
    refine ⟨hcan, _, leadingBits k (st.gen.osr <<< 1) ++ serialImage words, execGenBit_of_can hcan, ?_⟩
    rw [sendBit_of_untimed h.untimed]
    refine ⟨h.generator (shiftOut st.gen) _ rfl, by simp [leadingBits], ?_⟩
    have hinq : (shiftOut st.gen).inq ++ coming = words := htake
    simp only [hinq]
    rw [show m = 25 * words.length + 1 + k by omega]
    exact sends_shiftOut hcnt hbits
  | reset hphase =>
    have hinstr : genStepInstr st = .genRst := by rw [genStepInstr, hphase]
    have hcan : canGenRst st = true := canGenRst_iff.mpr ⟨hrest, hphase⟩
    rw [hinstr]
    refine ⟨hcan, _, [], execGenRst_of_can hcan, ?_⟩
    rw [sendReset_of_untimed h.untimed]
    refine ⟨h.generator { st.gen with phase := .hdr } _ rfl, by simp [serialImage], ?_⟩
    simp only [htake]
    rw [show m = 0 by omega]
    exact .done rfl
  | done => cases hsteps

/-! ## The whole of a `DRAIN` -/

/-- With no step left and no word to deliver, both are at a frame boundary, and nothing is enabled. -/
theorem at_boundary (h : Draining s st coming) (hsends : Sends st.cfg st.gen (st.gen.inq ++ coming) image 0) :
    coming = [] ∧ image = [] ∧ FrameBoundary st ∧ enabled st (genStepInstr st) = false := by
  obtain ⟨hwords, himage, hphase⟩ := hsends.eq_of_no_step
  obtain ⟨hinq, hcoming⟩ := List.append_eq_nil_iff.mp hwords
  have hidle : st.dma.busy = false := by
    by_contra hbusy
    exact h.busy.mp (by simpa using hbusy) hcoming
  refine ⟨hcoming, himage, ⟨hidle, h.noRequest, hinq, hphase⟩, ?_⟩
  rw [genStepInstr, hphase]
  exact Bool.eq_false_iff.mpr fun hcan => (canGenHdr_iff.mp hcan).2.2 hinq

/-- `DRAIN` delivers every word and sends the whole image, given a step for each word and each of the generator's
steps. -/
theorem drain (h : Draining s st coming) (hsends : Sends st.cfg st.gen (st.gen.inq ++ coming) image m) {fuel : Nat}
    (hfuel : m + coming.length ≤ fuel) :
    ∃ t, drain fuel st = .next t ∧ Draining s t [] ∧ FrameBoundary t ∧ t.out = st.out ++ image := by
  induction fuel generalizing st coming image m with
  | zero =>
    obtain rfl : m = 0 := by omega
    obtain ⟨rfl, rfl, hboundary, -⟩ := h.at_boundary hsends
    exact ⟨st, rfl, h, hboundary, (List.append_nil _).symm⟩
  | succ fuel ih =>
    rw [Machine.drain]
    by_cases hcan : canXfer st = true
    · rw [if_pos hcan]
      obtain ⟨w, rest, rfl⟩ := List.exists_cons_of_ne_nil (h.canXfer_iff.mp hcan).1
      obtain ⟨t, hexec, hgen, hout, hcfg, ht⟩ := h.xfer hcan
      have hinq : t.gen.inq ++ rest = st.gen.inq ++ w :: rest := by rw [hgen, pushInq, List.append_assoc]; rfl
      rw [hexec, andThen, ← hout]
      rw [List.length_cons] at hfuel
      refine ih ht (m := m) ?_ (by omega)
      rw [hinq, hcfg, hgen]
      exact hsends.pushInq w
    · rw [if_neg hcan]
      cases m with
      | zero =>
        obtain ⟨rfl, rfl, hboundary, hstuck⟩ := h.at_boundary hsends
        exact ⟨st, by rw [hstuck]; rfl, h, hboundary, (List.append_nil _).symm⟩
      | succ m =>
        have hdepth := one_le_inDepth_of_configOk h.config
        have hword : st.gen.inq = [] → coming = [] := fun hinq => by
          by_contra hcoming
          exact hcan (h.canXfer_iff.mpr ⟨hcoming, hinq ▸ hdepth⟩)
        obtain ⟨hen, t, image', hexec, ht, hout, hsends'⟩ := h.genStep hsends hword
        rw [if_pos hen, hexec, andThen, ← hout]
        exact ih ht hsends' (by omega)

end Draining

/-! ## The obligation -/

/-- Rule R143 at a frame boundary, untimed, no swap waiting: the handler starts the frame's transfer. -/
theorem tickHandler_at_boundary (hidle : s.dma.busy = false) (hreq : s.ctx.swapReq = false) :
    tickHandler (raiseTick s) =
      nextDeadline (startTransfer (clearTick (raiseTick s)) s.ctx.addr) := by
  have hkeep := handlerSwap_of_not_due (s := clearTick (raiseTick s)) (.inr (.inl hreq))
  exact tickHandler_of_idle (s := raiseTick s) (ctx := s.ctx) ((congrArg State.ctx hkeep).trans rfl) hidle

/-- No tick pending before the tick, none after its handler. -/
theorem sch_of_no_tick {sch : Sch} (hnone : sch.irqPending = false) : { sch with irqPending := false } = sch := by
  rw [← hnone]

/-- `FRAME` where a tick can be raised (rule R93): the refresh, then `DRAIN`. -/
theorem runLine_frame {fuel : Nat} (hcan : canTick s = true) :
    runLine fuel .frame s = drain fuel (tickHandler (raiseTick s)) := by
  have hrefresh : runInstrs [.tick, .irq] s = .next (tickHandler (raiseTick s)) := runLine_refresh (fuel := fuel) hcan
  rw [runLine, hrefresh, andThen]

/-- Settles O59: the tick and its handler start the transfer of the frame, and `DRAIN` carries it through. -/
theorem frameSendsSerialImage : Obligations.FrameSendsSerialImage := by
  intro s colours fuel hs hboundary htimed harmed hnoTick hreq hlength hheader hcolours hfuel
  obtain ⟨hidle, hnone, hempty, hphase⟩ := hboundary
  have hready := hs.armed harmed
  have halive : s.sys.state ≠ .failed := by simp [hready]
  have hcan : canTick s = true := canTick_iff.mpr ⟨halive, harmed, hnoTick, fun h => by simp [htimed] at h⟩
  have hwords : (frameWords s.cfg).toNat = s.cfg.n + 1 := hs.frameWords
  have hstart := tickHandler_at_boundary hidle hreq
  have hdraining : Draining (tickHandler (raiseTick s)) (tickHandler (raiseTick s)) (header s.cfg.n :: colours) := by
    rw [hstart]
    exact
      { frame := rfl
        config := hs.config
        alive := halive
        untimed := htimed
        init := hs.init.mp hready
        words := fun j w hj => by
          refine Eq.trans (memRead_congr s _ rfl rfl rfl _) ?_
          cases j with
          | zero =>
            obtain rfl := Option.some.inj hj
            exact (congrArg (memRead s) (wordAddr_zero _)).trans hheader
          | succ j => exact hcolours j w hj
        remaining := hwords.trans (by rw [List.length_cons, hlength])
        busy := ⟨fun _ => by simp, fun _ => rfl⟩
        noRequest := hnone }
  have hsends : Sends (tickHandler (raiseTick s)).cfg (tickHandler (raiseTick s)).gen
      ((tickHandler (raiseTick s)).gen.inq ++ header s.cfg.n :: colours) (serialImage colours)
      (25 * colours.length + 2) := by
    rw [tickHandler_cfg, tickHandler_gen, raiseTick_cfg, raiseTick_gen, hempty]
    exact .frame hphase hlength
  obtain ⟨t, hrun, ht, hboundary, hout⟩ := hdraining.drain hsends (fuel := fuel) (by rw [List.length_cons]; omega)
  have hframe := ht.frame
  rw [hstart] at hframe
  have hsch : t.sch = s.sch := by
    calc t.sch = { s.sch with irqPending := false } := by rw [hframe]; simp [htimed]
      _ = s.sch := sch_of_no_tick hnoTick
  exact ⟨t, (runLine_frame hcan).trans hrun, hout.trans (by simp), hboundary, (congrArg State.mem hframe).trans rfl,
    hsch, (congrArg State.ctx hframe).trans rfl, (congrArg State.bld hframe).trans rfl,
    (congrArg State.sys hframe).trans rfl⟩

end Sys2Proof.Machine
end
